-- ==== Sys2Proof/Word.lean ====
section
/-! DEFINITION. The word types of the block (R7, R81) and their plainest conversions. -/

namespace Sys2Proof

/-- A byte: a general register, a timer, one memory cell, NN (R20, R29, R60, R81). -/
abbrev Byte := BitVec 8

/-- A 16-bit word: an opcode, I, PC, a stack entry (R24, R25, R28, R80). -/
abbrev Word := BitVec 16

/-- A nibble: the family, N, a sub-selector (R81). -/
abbrev Nibble := BitVec 4

/-- A 12-bit address NNN (R81). -/
abbrev Addr := BitVec 12

/-- The number of a general register, 0x0 to 0xF (R20); 0xF is VF (R21). -/
abbrev Reg := Fin 16

/-- The number of VF, general register and flag register in one (R21). -/
abbrev Reg.vf : Reg := 0xF

/-- `zext_16` of a 12-bit address (R11, R83). -/
abbrev zextAddr (a : Addr) : Word := a.setWidth 16

/-- `zext_16` of a byte (R11). -/
abbrev zextByte (b : Byte) : Word := b.setWidth 16

end Sys2Proof
end

