-- ==== Sys2Proof/Syntax.lean ====
section
/-! DEFINITION. The instructions: one constructor per row of the opcode table (R82, R91, R94). Operands are the fields
of R81; a field an instruction ignores is kept, so that no bit of a word is lost (R117, R118, R148, R150, R240). -/

namespace Sys2Proof

/-- One instruction (R84). The names follow R94, the hex pattern of each is given beside it. -/
inductive Instr where
  /-- 00E0 CLS (R190) -/
  | cls
  /-- 00EE RET (R111) -/
  | ret
  /-- 1NNN JP addr (R113) -/
  | jp (nnn : Addr)
  /-- 2NNN CALL addr (R112) -/
  | call (nnn : Addr)
  /-- 3XNN SE Vx, byte (R115) -/
  | seByte (x : Reg) (nn : Byte)
  /-- 4XNN SNE Vx, byte (R116) -/
  | sneByte (x : Reg) (nn : Byte)
  /-- 5XYn SE Vx, Vy; n is ignored (R117) -/
  | seReg (x y : Reg) (n : Nibble)
  /-- 6XNN LD Vx, byte (R140) -/
  | ldByte (x : Reg) (nn : Byte)
  /-- 7XNN ADD Vx, byte (R141) -/
  | addByte (x : Reg) (nn : Byte)
  /-- 8XY0 LD Vx, Vy (R142) -/
  | ldReg (x y : Reg)
  /-- 8XY1 OR Vx, Vy (R143) -/
  | orReg (x y : Reg)
  /-- 8XY2 AND Vx, Vy (R144) -/
  | andReg (x y : Reg)
  /-- 8XY3 XOR Vx, Vy (R145) -/
  | xorReg (x y : Reg)
  /-- 8XY4 ADD Vx, Vy (R146) -/
  | addReg (x y : Reg)
  /-- 8XY5 SUB Vx, Vy (R147) -/
  | subReg (x y : Reg)
  /-- 8XY6 SHR Vx; Y is encoded and not read (R148) -/
  | shr (x y : Reg)
  /-- 8XY7 SUBN Vx, Vy (R149) -/
  | subnReg (x y : Reg)
  /-- 8XYE SHL Vx; Y is encoded and not read (R150) -/
  | shl (x y : Reg)
  /-- 9XYn SNE Vx, Vy; n is ignored (R118) -/
  | sneReg (x y : Reg) (n : Nibble)
  /-- ANNN LD I, addr (R170) -/
  | ldI (nnn : Addr)
  /-- BNNN JP V0, addr (R114) -/
  | jpV0 (nnn : Addr)
  /-- CXNN RND Vx, byte (R152) -/
  | rnd (x : Reg) (nn : Byte)
  /-- DXYN DRW Vx, Vy, nibble (R191) -/
  | drw (x y : Reg) (n : Nibble)
  /-- EX9E SKP Vx (R210) -/
  | skp (x : Reg)
  /-- EXA1 SKNP Vx (R211) -/
  | sknp (x : Reg)
  /-- FX07 LD Vx, DT (R212) -/
  | ldVxDt (x : Reg)
  /-- FX0A LD Vx, K (R213) -/
  | ldVxK (x : Reg)
  /-- FX15 LD DT, Vx (R214) -/
  | ldDtVx (x : Reg)
  /-- FX18 LD ST, Vx (R215) -/
  | ldStVx (x : Reg)
  /-- FX1E ADD I, Vx (R171) -/
  | addI (x : Reg)
  /-- FX29 LD F, Vx (R172) -/
  | ldF (x : Reg)
  /-- FX33 LD B, Vx (R173) -/
  | ldB (x : Reg)
  /-- FX55 LD [I], Vx (R174) -/
  | storeRegs (x : Reg)
  /-- FX65 LD Vx, [I] (R175) -/
  | loadRegs (x : Reg)
  /-- 0NNN, unmapped in family 0 (R240, R86) -/
  | nop0 (nnn : Addr)
  /-- 8XYN, unmapped in family 8 (R240, R87) -/
  | nop8 (x y : Reg) (n : Nibble)
  /-- EXNN, unmapped in family E (R240, R88) -/
  | nopE (x : Reg) (nn : Byte)
  /-- FXNN, unmapped in family F (R240, R88) -/
  | nopF (x : Reg) (nn : Byte)
  deriving DecidableEq, Repr

/-- The row of the opcode table an instruction belongs to, as the table spells its mnemonic (R94). -/
def Instr.mnemonic : Instr → String
  | .cls => "CLS"
  | .ret => "RET"
  | .jp _ => "JP_addr"
  | .call _ => "CALL_addr"
  | .seByte _ _ => "SE_Vx__byte"
  | .sneByte _ _ => "SNE_Vx__byte"
  | .seReg _ _ _ => "SE_Vx__Vy"
  | .ldByte _ _ => "LD_Vx__byte"
  | .addByte _ _ => "ADD_Vx__byte"
  | .ldReg _ _ => "LD_Vx__Vy"
  | .orReg _ _ => "OR_Vx__Vy"
  | .andReg _ _ => "AND_Vx__Vy"
  | .xorReg _ _ => "XOR_Vx__Vy"
  | .addReg _ _ => "ADD_Vx__Vy"
  | .subReg _ _ => "SUB_Vx__Vy"
  | .shr _ _ => "SHR_Vx____Vy"
  | .subnReg _ _ => "SUBN_Vx__Vy"
  | .shl _ _ => "SHL_Vx____Vy"
  | .sneReg _ _ _ => "SNE_Vx__Vy"
  | .ldI _ => "LD_I__addr"
  | .jpV0 _ => "JP_V0__addr"
  | .rnd _ _ => "RND_Vx__byte"
  | .drw _ _ _ => "DRW_Vx__Vy__nibble"
  | .skp _ => "SKP_Vx"
  | .sknp _ => "SKNP_Vx"
  | .ldVxDt _ => "LD_Vx__DT"
  | .ldVxK _ => "LD_Vx__K"
  | .ldDtVx _ => "LD_DT__Vx"
  | .ldStVx _ => "LD_ST__Vx"
  | .addI _ => "ADD_I__Vx"
  | .ldF _ => "LD_F__Vx"
  | .ldB _ => "LD_B__Vx"
  | .storeRegs _ => "LD__I___Vx"
  | .loadRegs _ => "LD_Vx___I"
  | .nop0 _ => "NOP__family_0__unmapped"
  | .nop8 _ _ _ => "NOP__family_8__unmapped"
  | .nopE _ _ => "NOP__family_E__unmapped"
  | .nopF _ _ => "NOP__family_F__unmapped"

end Sys2Proof
end

