-- ==== Sys2Proof/WellFormed.lean ====
section
/-! DEFINITION. Well-formed instructions: those some opcode word encodes. Every field has its own width in its type, so
only the no-ops are checked: their fields must be an UNMAPPED sub-selector of their family (R86, R87, R88, R241). -/

namespace Sys2Proof

/-- Family 0 is unmapped exactly off 0x0E0 and 0x0EE (R86, R241). -/
def unmapped0 (nnn : Addr) : Bool := nnn != 0x0E0 && nnn != 0x0EE

/-- Family 8 is unmapped exactly at N = 8 to D and F (R87, R241). -/
def unmapped8 (n : Nibble) : Bool := [0x8, 0x9, 0xA, 0xB, 0xC, 0xD, 0xF].contains n

/-- Family E is unmapped exactly off 0x9E and 0xA1 (R88, R241). -/
def unmappedE (nn : Byte) : Bool := nn != 0x9E && nn != 0xA1

/-- Family F is unmapped exactly off its nine selectors (R88, R241). -/
def unmappedF (nn : Byte) : Bool :=
  !([0x07, 0x0A, 0x15, 0x18, 0x1E, 0x29, 0x33, 0x55, 0x65].contains nn)

/-- Well-formedness of an instruction. -/
def Instr.wf : Instr → Bool
  | .cls => true
  | .ret => true
  | .jp _ => true
  | .call _ => true
  | .seByte _ _ => true
  | .sneByte _ _ => true
  | .seReg _ _ _ => true
  | .ldByte _ _ => true
  | .addByte _ _ => true
  | .ldReg _ _ => true
  | .orReg _ _ => true
  | .andReg _ _ => true
  | .xorReg _ _ => true
  | .addReg _ _ => true
  | .subReg _ _ => true
  | .shr _ _ => true
  | .subnReg _ _ => true
  | .shl _ _ => true
  | .sneReg _ _ _ => true
  | .ldI _ => true
  | .jpV0 _ => true
  | .rnd _ _ => true
  | .drw _ _ _ => true
  | .skp _ => true
  | .sknp _ => true
  | .ldVxDt _ => true
  | .ldVxK _ => true
  | .ldDtVx _ => true
  | .ldStVx _ => true
  | .addI _ => true
  | .ldF _ => true
  | .ldB _ => true
  | .storeRegs _ => true
  | .loadRegs _ => true
  | .nop0 nnn => unmapped0 nnn
  | .nop8 _ _ n => unmapped8 n
  | .nopE _ nn => unmappedE nn
  | .nopF _ nn => unmappedF nn

end Sys2Proof
end

