-- ==== Sys2Proof/Decode.lean ====
section
/-! DEFINITION. The decoder, total on the 65536 opcode words (R84) and on any list of bytes; the encoder, written from
the formats of R82; the opcode table as rows of match and mask (spec/opcode_table.json). -/

namespace Sys2Proof

/-! ## Fields of an opcode word (R81) -/

/-- `op[15:12]`, the family. -/
def familyOf (op : Word) : Nibble := op.extractLsb' 12 4

/-- X, `op[11:8]`. -/
def xOf (op : Word) : Reg := (op.extractLsb' 8 4).toFin

/-- Y, `op[7:4]`. -/
def yOf (op : Word) : Reg := (op.extractLsb' 4 4).toFin

/-- N, `op[3:0]`. -/
def nOf (op : Word) : Nibble := op.extractLsb' 0 4

/-- NN, `op[7:0]`. -/
def nnOf (op : Word) : Byte := op.extractLsb' 0 8

/-- NNN, `op[11:0]`. -/
def nnnOf (op : Word) : Addr := op.extractLsb' 0 12

/-! ## The dispatch multiplexer (R84 to R88) -/

/-- Family 0: the sub-selector is NNN (R86). -/
def decodeFamily0 (nnn : Addr) : Instr :=
  match nnn.toNat with
  | 0x0E0 => .cls
  | 0x0EE => .ret
  | _ => .nop0 nnn

/-- Family 8: the sub-selector is N (R87). -/
def decodeFamily8 (x y : Reg) (n : Nibble) : Instr :=
  match n.toNat with
  | 0x0 => .ldReg x y
  | 0x1 => .orReg x y
  | 0x2 => .andReg x y
  | 0x3 => .xorReg x y
  | 0x4 => .addReg x y
  | 0x5 => .subReg x y
  | 0x6 => .shr x y
  | 0x7 => .subnReg x y
  | 0xE => .shl x y
  | _ => .nop8 x y n

/-- Family E: the sub-selector is NN (R88). -/
def decodeFamilyE (x : Reg) (nn : Byte) : Instr :=
  match nn.toNat with
  | 0x9E => .skp x
  | 0xA1 => .sknp x
  | _ => .nopE x nn

/-- Family F: the sub-selector is NN (R88). -/
def decodeFamilyF (x : Reg) (nn : Byte) : Instr :=
  match nn.toNat with
  | 0x07 => .ldVxDt x
  | 0x0A => .ldVxK x
  | 0x15 => .ldDtVx x
  | 0x18 => .ldStVx x
  | 0x1E => .addI x
  | 0x29 => .ldF x
  | 0x33 => .ldB x
  | 0x55 => .storeRegs x
  | 0x65 => .loadRegs x
  | _ => .nopF x nn

/-- Decode (R84): the family selects first (R85 to R88); the last arm is family F. -/
def decode (op : Word) : Instr :=
  match (familyOf op).toNat with
  | 0x0 => decodeFamily0 (nnnOf op)
  | 0x1 => .jp (nnnOf op)
  | 0x2 => .call (nnnOf op)
  | 0x3 => .seByte (xOf op) (nnOf op)
  | 0x4 => .sneByte (xOf op) (nnOf op)
  | 0x5 => .seReg (xOf op) (yOf op) (nOf op)
  | 0x6 => .ldByte (xOf op) (nnOf op)
  | 0x7 => .addByte (xOf op) (nnOf op)
  | 0x8 => decodeFamily8 (xOf op) (yOf op) (nOf op)
  | 0x9 => .sneReg (xOf op) (yOf op) (nOf op)
  | 0xA => .ldI (nnnOf op)
  | 0xB => .jpV0 (nnnOf op)
  | 0xC => .rnd (xOf op) (nnOf op)
  | 0xD => .drw (xOf op) (yOf op) (nOf op)
  | 0xE => decodeFamilyE (xOf op) (nnOf op)
  | _ => decodeFamilyF (xOf op) (nnOf op)

/-- Two bytes, the one at the lower address first, as an opcode word: big-endian (R65, R90). -/
def opcodeOfBytes (hi lo : Byte) : Word := hi ++ lo

/-- Why a list of bytes holds no instruction. No word is illegal (R92), so the only reason is that two bytes are not
there (R80). -/
inductive DecodeError where
  /-- Fewer than two bytes were given. -/
  | truncated
  deriving DecidableEq, Repr

/-- Decode the first instruction of a list of bytes and give the rest back (R80). -/
def decodeBytes : List Byte → Except DecodeError (Instr × List Byte)
  | hi :: lo :: rest => .ok (decode (opcodeOfBytes hi lo), rest)
  | [_] => .error .truncated
  | [] => .error .truncated

/-- The two bytes of a table word of `nbits` bits, the bits above them 0, as memory holds them (R65). -/
def tableWordBytes (nbits w : Nat) : Byte × Byte :=
  (BitVec.ofNat 8 (w % 2 ^ nbits / 256), BitVec.ofNat 8 (w % 2 ^ nbits))

/-- What the decoder reads from a table word. -/
def decodeTableWord (nbits w : Nat) : Option Instr :=
  match decodeBytes [(tableWordBytes nbits w).1, (tableWordBytes nbits w).2] with
  | .ok (i, _) => some i
  | .error _ => none

/-! ## The encoder (R82) -/

/-- A register number as the nibble of its field (R81). -/
def regNibble (x : Reg) : Nibble := BitVec.ofFin x

/-- Format A: `ffff NNNN NNNN NNNN`. -/
def formatA (f : Nibble) (nnn : Addr) : Word := f ++ nnn

/-- Formats XK and XS: `ffff XXXX NNNN NNNN`. -/
def formatXK (f : Nibble) (x : Reg) (nn : Byte) : Word := f ++ regNibble x ++ nn

/-- Formats XY and XYN: `ffff XXXX YYYY ssss`. -/
def formatXY (f : Nibble) (x y : Reg) (s : Nibble) : Word := f ++ regNibble x ++ regNibble y ++ s

/-- The word of an instruction. -/
def encode : Instr → Word
  | .cls => formatA 0x0 0x0E0
  | .ret => formatA 0x0 0x0EE
  | .jp nnn => formatA 0x1 nnn
  | .call nnn => formatA 0x2 nnn
  | .seByte x nn => formatXK 0x3 x nn
  | .sneByte x nn => formatXK 0x4 x nn
  | .seReg x y n => formatXY 0x5 x y n
  | .ldByte x nn => formatXK 0x6 x nn
  | .addByte x nn => formatXK 0x7 x nn
  | .ldReg x y => formatXY 0x8 x y 0x0
  | .orReg x y => formatXY 0x8 x y 0x1
  | .andReg x y => formatXY 0x8 x y 0x2
  | .xorReg x y => formatXY 0x8 x y 0x3
  | .addReg x y => formatXY 0x8 x y 0x4
  | .subReg x y => formatXY 0x8 x y 0x5
  | .shr x y => formatXY 0x8 x y 0x6
  | .subnReg x y => formatXY 0x8 x y 0x7
  | .shl x y => formatXY 0x8 x y 0xE
  | .sneReg x y n => formatXY 0x9 x y n
  | .ldI nnn => formatA 0xA nnn
  | .jpV0 nnn => formatA 0xB nnn
  | .rnd x nn => formatXK 0xC x nn
  | .drw x y n => formatXY 0xD x y n
  | .skp x => formatXK 0xE x 0x9E
  | .sknp x => formatXK 0xE x 0xA1
  | .ldVxDt x => formatXK 0xF x 0x07
  | .ldVxK x => formatXK 0xF x 0x0A
  | .ldDtVx x => formatXK 0xF x 0x15
  | .ldStVx x => formatXK 0xF x 0x18
  | .addI x => formatXK 0xF x 0x1E
  | .ldF x => formatXK 0xF x 0x29
  | .ldB x => formatXK 0xF x 0x33
  | .storeRegs x => formatXK 0xF x 0x55
  | .loadRegs x => formatXK 0xF x 0x65
  | .nop0 nnn => formatA 0x0 nnn
  | .nop8 x y n => formatXY 0x8 x y n
  | .nopE x nn => formatXK 0xE x nn
  | .nopF x nn => formatXK 0xF x nn

/-- The bytes of an instruction in memory, the high byte at the lower address (R65). -/
def encodeBytes (i : Instr) : List Byte :=
  [(encode i).extractLsb' 8 8, (encode i).extractLsb' 0 8]

/-! ## The opcode table (spec/opcode_table.json, R91) -/

/-- A row of the opcode table: a word belongs to it where it agrees with `bits` under `mask`. -/
structure OpcodeRow where
  mnemonic : String
  bits : Word
  mask : Word
  deriving DecidableEq, Repr

/-- Families 0 to 7, without the no-op. -/
def opcodeRowsLow : List OpcodeRow :=
  [⟨"CLS", 0x00E0, 0xFFFF⟩, ⟨"RET", 0x00EE, 0xFFFF⟩, ⟨"JP_addr", 0x1000, 0xF000⟩,
   ⟨"CALL_addr", 0x2000, 0xF000⟩, ⟨"SE_Vx__byte", 0x3000, 0xF000⟩, ⟨"SNE_Vx__byte", 0x4000, 0xF000⟩,
   ⟨"SE_Vx__Vy", 0x5000, 0xF000⟩, ⟨"LD_Vx__byte", 0x6000, 0xF000⟩, ⟨"ADD_Vx__byte", 0x7000, 0xF000⟩]

/-- Family 8, without the no-op. -/
def opcodeRows8 : List OpcodeRow :=
  [⟨"LD_Vx__Vy", 0x8000, 0xF00F⟩, ⟨"OR_Vx__Vy", 0x8001, 0xF00F⟩, ⟨"AND_Vx__Vy", 0x8002, 0xF00F⟩,
   ⟨"XOR_Vx__Vy", 0x8003, 0xF00F⟩, ⟨"ADD_Vx__Vy", 0x8004, 0xF00F⟩, ⟨"SUB_Vx__Vy", 0x8005, 0xF00F⟩,
   ⟨"SHR_Vx____Vy", 0x8006, 0xF00F⟩, ⟨"SUBN_Vx__Vy", 0x8007, 0xF00F⟩, ⟨"SHL_Vx____Vy", 0x800E, 0xF00F⟩]

/-- Families 9 to D. -/
def opcodeRowsMid : List OpcodeRow :=
  [⟨"SNE_Vx__Vy", 0x9000, 0xF000⟩, ⟨"LD_I__addr", 0xA000, 0xF000⟩, ⟨"JP_V0__addr", 0xB000, 0xF000⟩,
   ⟨"RND_Vx__byte", 0xC000, 0xF000⟩, ⟨"DRW_Vx__Vy__nibble", 0xD000, 0xF000⟩]

/-- Families E and F, without the no-ops. -/
def opcodeRowsHigh : List OpcodeRow :=
  [⟨"SKP_Vx", 0xE09E, 0xF0FF⟩, ⟨"SKNP_Vx", 0xE0A1, 0xF0FF⟩, ⟨"LD_Vx__DT", 0xF007, 0xF0FF⟩,
   ⟨"LD_Vx__K", 0xF00A, 0xF0FF⟩, ⟨"LD_DT__Vx", 0xF015, 0xF0FF⟩, ⟨"LD_ST__Vx", 0xF018, 0xF0FF⟩,
   ⟨"ADD_I__Vx", 0xF01E, 0xF0FF⟩, ⟨"LD_F__Vx", 0xF029, 0xF0FF⟩, ⟨"LD_B__Vx", 0xF033, 0xF0FF⟩,
   ⟨"LD__I___Vx", 0xF055, 0xF0FF⟩, ⟨"LD_Vx___I", 0xF065, 0xF0FF⟩]

/-- The fallback rows, of lower priority than every row above (R240). -/
def opcodeRowsFallback : List OpcodeRow :=
  [⟨"NOP__family_0__unmapped", 0x0000, 0xF000⟩, ⟨"NOP__family_8__unmapped", 0x8000, 0xF000⟩,
   ⟨"NOP__family_E__unmapped", 0xE000, 0xF000⟩, ⟨"NOP__family_F__unmapped", 0xF000, 0xF000⟩]

/-- The rows that name an instruction of their own: the 34 patterns. -/
def opcodeRows : List OpcodeRow := opcodeRowsLow ++ opcodeRows8 ++ opcodeRowsMid ++ opcodeRowsHigh

/-- The 38 rows in order of priority. -/
def opcodeTable : List OpcodeRow := opcodeRows ++ opcodeRowsFallback

/-- A word belongs to a row. -/
def OpcodeRow.holds (r : OpcodeRow) (op : Word) : Bool := op &&& r.mask == r.bits

/-- The row of the table a word falls under: the first that holds. -/
def tableRow (op : Word) : Option OpcodeRow := opcodeTable.find? (fun r => r.holds op)

end Sys2Proof
end

