-- ==== Sys2Proof/Config.lean ====
section
/-! DEFINITION. What an implementation fixes (the parameters of R8) and the free values. -/

namespace Sys2Proof

/-- DRAW_COORD_LATCH (R8, R191, D12): whether DXYN reads its coordinates once before `VF <- 0`
(`latched`) or again at every set bit (`live`). -/
inductive CoordLatch where
  | latched
  | live
  deriving DecidableEq, Repr

/-- The parameters of R8, fixed for one machine. STEP_RATE is not modelled (R8, D22). -/
structure Config where
  /-- TIMER_RESET, 0 to 255: what Reset loads into DT and ST (R29, R30, D15). -/
  timerReset : Byte
  /-- LOAD_CAP: the longest program Load accepts (R282, D16). -/
  loadCap : Nat
  /-- FONT: the 80 bytes Reset puts at 0x000 to 0x04F (R41, D17). -/
  font : Vector Byte 80
  /-- DRAW_COORD_LATCH (R191, D12). -/
  drawCoordLatch : CoordLatch
  deriving DecidableEq, Repr

/-- The constraint R8 puts on the parameters: 1 ≤ LOAD_CAP ≤ 3584. -/
def Config.wf (c : Config) : Bool :=
  decide (1 ≤ c.loadCap) && decide (c.loadCap ≤ 3584)

/-- Glyphs 0 to 7 of the default FONT (R41). PRESUMED: the spec marks them as general knowledge (G1, D17). -/
def defaultFontLow : List Byte :=
  [0xF0, 0x90, 0x90, 0x90, 0xF0] ++ [0x20, 0x60, 0x20, 0x20, 0x70] ++
  [0xF0, 0x10, 0xF0, 0x80, 0xF0] ++ [0xF0, 0x10, 0xF0, 0x10, 0xF0] ++
  [0x90, 0x90, 0xF0, 0x10, 0x10] ++ [0xF0, 0x80, 0xF0, 0x10, 0xF0] ++
  [0xF0, 0x80, 0xF0, 0x90, 0xF0] ++ [0xF0, 0x10, 0x20, 0x40, 0x40]

/-- Glyphs 8 to F of the default FONT (R41). PRESUMED, as above. -/
def defaultFontHigh : List Byte :=
  [0xF0, 0x90, 0xF0, 0x90, 0xF0] ++ [0xF0, 0x90, 0xF0, 0x10, 0xF0] ++
  [0xF0, 0x90, 0xF0, 0x90, 0x90] ++ [0xE0, 0x90, 0xE0, 0x90, 0xE0] ++
  [0xF0, 0x80, 0x80, 0x80, 0xF0] ++ [0xE0, 0x90, 0x90, 0x90, 0xE0] ++
  [0xF0, 0x80, 0xF0, 0x80, 0xF0] ++ [0xF0, 0x80, 0xF0, 0x80, 0x80]

/-- The defaults of R8: TIMER_RESET 60, LOAD_CAP 3232, the FONT of R41, DRAW_COORD_LATCH latched. -/
def Config.default : Config where
  timerReset := 60
  loadCap := 3232
  font := ⟨(defaultFontLow ++ defaultFontHigh).toArray, by decide⟩
  drawCoordLatch := .latched

/-- FREE VALUE (R152, D14): the random byte of the n-th Step, where the host hands none over. It has no body:
nothing can be proved of its values. -/
opaque Config.freeRnd : Nat → Byte

end Sys2Proof
end

