-- ==== Sys2Proof/Machine/State.lean ====
section
/-! DEFINITION. The state of the block (10_state.md, 20_memory.md R60), its fault kinds, and the state after Reset. -/

namespace Sys2Proof.Machine

/-- A sparse array of bytes: address and byte pairs, addresses rising, none listed with the byte an unlisted address
reads as. -/
abbrev Cells := List Host.Cell

/-- MEM (R60): byte addresses 0x000 to 0xFFF. -/
abbrev Memory := Cells

/-- DISP (R32): pixel bytes 0 to 2047. -/
abbrev Display := Cells

/-- The fault kinds of R45 and R251. The block delivers a fault by its FAULT latch: a faulting step is a NEXT state that
holds the kind (R252), so no step of the model ends in `Host.Outcome.fault`. -/
inductive Fault where
  /-- Code 1. Raised by the fetch at PC > 0xFFE (R90). Safe: the source reads out of bounds there (D8). -/
  | fetchOutOfRange
  /-- Code 2. Raised by CALL at SP = 16 (R112). Safe: undefined in the source (D6). -/
  | stackOverflow
  /-- Code 3. Raised by RET at SP = 0 (R111). Safe: undefined in the source (D6). -/
  | stackUnderflow
  /-- Code 4. Raised by DRW, LD B, LD [I] and LD Vx, [I] where an address is above 0xFFF (R64). Safe (D7). -/
  | memoryOutOfRange
  /-- Code 5. Raised by SKP and SKNP where V[X] > 0xF (R210, R211). Safe (D9). -/
  | keyIndexOutOfRange
  deriving DecidableEq, Repr

/-- The refusals. No meaning of this model refuses. -/
inductive Refusal where
  /-- Raised by an arm of `exec` whose instruction has no meaning yet; no arm does. Safe. -/
  | notModelled (mnemonic : String)
  deriving DecidableEq, Repr

/-- The state of the block, `(MEM, V, I, PC, SP, STACK, DT, ST, KEY, DISP, DRAW, FAULT)` (R45 to R48), and after it the
fields that are the MODEL's own: the step's output and inputs (R13) and its parameters (R8, R47). -/
structure State where
  /-- MEM (R60) -/
  mem : Memory
  /-- V0 to VF (R20, R21) -/
  v : Vector Byte 16
  /-- I (R24) -/
  i : Word
  /-- PC (R25) -/
  pc : Word
  /-- SP, the next free slot, 0 to 16 (R27) -/
  sp : Fin 17
  /-- STACK (R28) -/
  stack : Vector Word 16
  /-- DT (R29) -/
  dt : Byte
  /-- ST (R30) -/
  st : Byte
  /-- KEY, true where pressed (R31) -/
  key : Vector Bool 16
  /-- DISP (R32) -/
  disp : Display
  /-- DRAW (R33) -/
  draw : Bool
  /-- FAULT (R45) -/
  fault : Option Fault
  /-- MODEL'S OWN: the BEEP output of the last Step (R13, R221). -/
  beep : Bool
  /-- MODEL'S OWN: the `rnd` inputs handed over for the coming Steps, first first (R13, R261). -/
  rndIn : List Byte
  /-- MODEL'S OWN: the number of Steps taken, where the free random stream is read (R152, D14). -/
  draws : Nat
  /-- MODEL'S OWN: the parameters of R8; nothing changes them. -/
  cfg : Config
  deriving DecidableEq, Repr

/-- The state after Reset with parameters `c` (R48, R280). MEM lists nothing: an unlisted address reads as its reset
content (`unlisted`). -/
def State.resetWith (c : Config) : State where
  mem := []
  v := Vector.replicate 16 0x00
  i := 0x0000
  pc := 0x0200
  sp := 0
  stack := Vector.replicate 16 0x0000
  dt := c.timerReset
  st := c.timerReset
  key := Vector.replicate 16 false
  disp := []
  draw := false
  fault := none
  beep := false
  rndIn := []
  draws := 0
  cfg := c

/-- The state after Reset with the default parameters of R8. -/
def State.reset : State := State.resetWith Config.default

end Sys2Proof.Machine
end

