-- ==== Sys2Proof/Machine/Ops.lean ====
section
/-! DEFINITION. The named operations over memory, display, registers, stack and latches, and fault entry. -/

namespace Sys2Proof.Machine

/-! ## Sparse byte arrays -/

/-- The byte at `a`; `init` is what an unlisted address reads as. -/
def Cells.read (init : Nat → Byte) : Cells → Nat → Byte
  | [], a => init a
  | (b, w) :: rest, a => if a = b then w else Cells.read init rest a

/-- List `(a, v)` at its place. -/
def Cells.put (a : Nat) (v : Byte) : Cells → Cells
  | [] => [(a, v)]
  | (b, w) :: rest =>
    if a < b then (a, v) :: (b, w) :: rest
    else if a = b then (a, v) :: rest
    else (b, w) :: Cells.put a v rest

/-- Take `a` out of the list. -/
def Cells.drop (a : Nat) (c : Cells) : Cells := c.filter (fun e => e.1 != a)

/-- Write `v` at `a`, keeping the canonical form: the byte an unlisted address reads as is not listed. -/
def Cells.write (init : Nat → Byte) (c : Cells) (a : Nat) (v : Byte) : Cells :=
  if v = init a then Cells.drop a c else Cells.put a v c

/-- Every address of the list is above `lo`, and they rise. -/
def Cells.risingAbove (lo : Nat) : Cells → Bool
  | [] => true
  | (a, _) :: rest => decide (lo < a) && Cells.risingAbove a rest

/-- The addresses rise strictly. -/
def Cells.rising : Cells → Bool
  | [] => true
  | (a, _) :: rest => Cells.risingAbove a rest

/-- Canonical form over `size` addresses. -/
def Cells.wf (init : Nat → Byte) (size : Nat) (c : Cells) : Bool :=
  Cells.rising c && c.all (fun e => decide (e.1 < size) && e.2 != init e.1)

/-! ## Memory (20_memory.md) -/

/-- What an address that nothing has written reads as: FONT at 0x000 to 0x04F, 0 elsewhere (R48, R69). -/
def unlisted (font : Vector Byte 80) (a : Nat) : Byte := if h : a < 80 then font[a] else 0

/-- The canonical form of MEM over 0x000 to 0xFFF (R60). -/
def Memory.wf (font : Vector Byte 80) (m : Memory) : Bool := Cells.wf (unlisted font) 4096 m

/-- `MemRead(a, 1)` (R62). -/
def State.readByte (s : State) (a : Nat) : Byte := Cells.read (unlisted s.cfg.font) s.mem a

/-- `MemWrite(a, 1, v)` (R63). -/
def State.writeByte (s : State) (a : Nat) (b : Byte) : State :=
  { s with mem := Cells.write (unlisted s.cfg.font) s.mem a b }

/-- Single-byte writes at `a`, `a + 1`, ... in ascending order (R65, R67). -/
def State.writeBytes (s : State) (a : Nat) : List Byte → State
  | [] => s
  | b :: bs => (s.writeByte a b).writeBytes (a + 1) bs

/-! ## Registers (10_state.md) -/

/-- `V[x]` (R20). -/
def State.reg (s : State) (x : Reg) : Byte := s.v[x]

/-- `V[x] <- b` (R20); x = F writes VF (R21). -/
def State.setReg (s : State) (x : Reg) (b : Byte) : State := { s with v := s.v.set x b }

/-- `I <- w` (R24). -/
def State.setI (s : State) (w : Word) : State := { s with i := w }

/-- `PC <- w` (R25). -/
def State.setPc (s : State) (w : Word) : State := { s with pc := w }

/-- `DT <- b` (R29). -/
def State.setDt (s : State) (b : Byte) : State := { s with dt := b }

/-- `ST <- b` (R30). -/
def State.setSt (s : State) (b : Byte) : State := { s with st := b }

/-- `PC <- PC + 2` by the fetch (R90). -/
def State.advance (s : State) : State := s.setPc (s.pc + 2)

/-- `Skip()` (R110). -/
def State.skip (s : State) : State := s.setPc (s.pc + 2)

/-- `if c: Skip()`. -/
def State.skipIf (s : State) (c : Bool) : State := if c then s.skip else s

/-- `PC <- PC - 2`, the rewind of FX0A (R213). -/
def State.rewind (s : State) : State := s.setPc (s.pc - 2)

/-! ## Display (43_display.md) -/

/-- `DISP[k]` (R32). -/
def State.pixel (s : State) (k : Nat) : Byte := Cells.read (fun _ => 0x00) s.disp k

/-- `DISP[k] <- b` (R32). -/
def State.setPixel (s : State) (k : Nat) (b : Byte) : State :=
  { s with disp := Cells.write (fun _ => 0x00) s.disp k b }

/-- Every `DISP[k] <- 0x00` (R190). -/
def State.clearDisplay (s : State) : State := { s with disp := [] }

/-- The canonical form of DISP over 0 to 2047 (R32). -/
def Display.wf (d : Display) : Bool := Cells.wf (fun _ => 0x00) 2048 d

/-- `DRAW <- b` (R33). -/
def State.setDraw (s : State) (b : Bool) : State := { s with draw := b }

/-! ## Fault entry (60_exceptions.md R252) -/

/-- Fault entry (R252): the state before the step with `FAULT <- k`; the step's BEEP is false. The spec names no return
from a fault: only Reset clears FAULT (R253, R256). -/
def State.takeFault (s : State) (k : Fault) : State := { s with fault := some k, beep := false }

/-- The execute phase of one instruction (R89): `body` runs on the state whose PC the fetch has advanced (R90).
`raise Fault(k)` in it (`.error k`) discards the step and enters the fault from the state before it (R12, R252). -/
def executing (s : State) (body : State → Except Fault State) :
    Host.Outcome State Fault Refusal :=
  match body s.advance with
  | .ok t => .next t
  | .error k => .next (s.takeFault k)

/-! ## The stack (R28) -/

/-- Call (R112): fault at SP = 16, else `STACK[SP] <- PC; SP <- SP + 1`. -/
def State.pushPc (s : State) : Except Fault State :=
  if h : s.sp.val < 16 then
    .ok { s with stack := s.stack.set s.sp.val s.pc h, sp := ⟨s.sp.val + 1, by omega⟩ }
  else .error .stackOverflow

/-- Return (R111): fault at SP = 0, else `SP <- SP - 1; PC <- STACK[SP]`; the entry keeps its value (R28). -/
def State.popPc (s : State) : Except Fault State :=
  if h : s.sp.val = 0 then .error .stackUnderflow
  else
    .ok { s with sp := ⟨s.sp.val - 1, by omega⟩, pc := s.stack[s.sp.val - 1]'(by omega) }

/-! ## The step's input and output (R13) -/

/-- `rnd` of this Step (R152, R261): the byte the host handed over, else a FREE VALUE. -/
def State.rndByte (s : State) : Byte :=
  match s.rndIn with
  | b :: _ => b
  | [] => Config.freeRnd s.draws

/-- A Step takes its one `rnd` input, whether the instruction uses it or not (R261). -/
def State.takeInput (s : State) : State := { s with rndIn := s.rndIn.tail, draws := s.draws + 1 }

/-- The BEEP output of a Step (R13). -/
def State.setBeep (s : State) (b : Bool) : State := { s with beep := b }

end Sys2Proof.Machine
end

