-- ==== Sys2Proof/Machine/Cycle.lean ====
section
/-! DEFINITION. The phases of a step around the execute phase (R89): fetch, timers, the step's input and output. -/

namespace Sys2Proof.Machine

/-- Phase 1 (R90): the two bytes at PC and PC + 1 as an opcode; none where PC > 0xFFE. -/
def State.fetch (s : State) : Option Word :=
  if s.pc.toNat > 0xFFE then none
  else some (opcodeOfBytes (s.readByte s.pc.toNat) (s.readByte (s.pc.toNat + 1)))

/-- One count of a timer toward 0; a timer at 0 stays (R220). -/
def countDown (b : Byte) : Byte := if b = 0 then 0 else b - 1

/-- Phase 4 (R220, R221): both timers count, BEEP is true exactly where ST was 1. -/
def State.timerPhase (s : State) : State :=
  { s with dt := countDown s.dt, st := countDown s.st, beep := s.st == 1 }

/-- The end of an executed step (R89): the timer phase, unless the execute phase raised a fault (R252); then the Step's
input is used up (R261). -/
def State.endStep (t : State) : State :=
  match t.fault with
  | none => t.timerPhase.takeInput
  | some _ => t.takeInput

/-- The end of a step, of whatever outcome. -/
def finishStep : Host.Outcome State Fault Refusal → Host.Outcome State Fault Refusal
  | .next t => .next t.endStep
  | .fault r => .fault r
  | .refused r => .refused r

/-- A Step on a faulted machine (R253): no state of the block changes and BEEP is false. -/
def State.stuckStep (s : State) : State := (s.setBeep false).takeInput

/-- A Step whose fetch faults (R90, R252). -/
def State.fetchFault (s : State) : State := (s.takeFault .fetchOutOfRange).takeInput

/-- A word in memory at PC, high byte first (R65); where PC > 0xFFE there is no place the step fetches from, and nothing
is stored. -/
def State.placeWord (s : State) (b : Byte × Byte) : State :=
  if s.pc.toNat > 0xFFE then s else (s.writeByte s.pc.toNat b.1).writeByte (s.pc.toNat + 1) b.2

end Sys2Proof.Machine
end

