-- ==== Sys2Proof/Machine/Flags.lean ====
section
/-! DEFINITION. Flag computations: VF is the only flag (R23). -/

namespace Sys2Proof.Machine

/-- A flag as the byte VF holds. -/
def flagByte (c : Bool) : Byte := if c then 1 else 0

/-- Carry of 8XY4: the unbounded sum exceeds 255 (R146). -/
def carryFlag (a b : Byte) : Byte := flagByte (decide (a.toNat + b.toNat > 255))

/-- Not-borrow of `a - b`: 0 where b is greater (R147, R149). -/
def notBorrowFlag (a b : Byte) : Byte := flagByte (!decide (b.toNat > a.toNat))

/-- The bit a right shift drops (R148). -/
def shrFlag (a : Byte) : Byte := a &&& 1

/-- The bit a left shift drops (R150). -/
def shlFlag (a : Byte) : Byte := a >>> 7

/-- The two statements of a flag-setting row in their order (R153, D5): VF takes the flag, then V[x] the result, which
reads VF as just written. -/
def State.flagThenResult (s : State) (flag : Byte) (x : Reg) (result : State → Byte) : State :=
  (s.setReg .vf flag).setReg x (result (s.setReg .vf flag))

end Sys2Proof.Machine
end

