-- ==== Sys2Proof/Machine/Operands.lean ====
section
/-! DEFINITION. Operand forms: the memory operand through I with its range check, the font address, the key operand. -/

namespace Sys2Proof.Machine

/-- The effective address of byte `k` of a memory operand: `I + k`, an unbounded integer (R64). -/
def State.effAddr (s : State) (k : Nat) : Nat := s.i.toNat + k

/-- The range check of R64, before any access: fault where `I + kMax` is above 0xFFF, else go on with `t`. -/
def State.checkRange (s : State) (kMax : Nat) (t : State) : Except Fault State :=
  if s.effAddr kMax > 0xFFF then .error .memoryOutOfRange else .ok t

/-- The address of the font glyph of a byte, `v * 5`; not masked (R172). -/
def glyphAddr (b : Byte) : Word := zextByte b * 5

/-- `KEY[V[x]]`, a fault where V[x] is above 0xF (R210, R211). -/
def State.keyOperand (s : State) (x : Reg) : Except Fault Bool :=
  if h : (s.reg x).toNat < 16 then .ok s.key[(s.reg x).toNat] else .error .keyIndexOutOfRange

/-- The lowest pressed key (R213). -/
def State.firstKey (s : State) : Option Reg := (List.finRange 16).find? (fun k => s.key[k])

/-- The registers V0 to V[x], in order (R174). -/
def State.regsThrough (s : State) (x : Reg) : List Byte := s.v.toList.take (x.val + 1)

/-- The three BCD digits of a byte, hundreds first (R173). -/
def bcdDigits (b : Byte) : List Byte :=
  [BitVec.ofNat 8 (b.toNat / 100), BitVec.ofNat 8 (b.toNat / 10 % 10), BitVec.ofNat 8 (b.toNat % 10)]

end Sys2Proof.Machine
end

