-- ==== Sys2Proof/Machine/Alu.lean ====
section
/-! DEFINITION. Register loads, the ALU and RND (41_alu.md). -/

namespace Sys2Proof.Machine

/-- 6XNN LD Vx, byte (R140). -/
def execLdByte (x : Reg) (nn : Byte) (s : State) : Host.Outcome State Fault Refusal :=
  executing s fun t => .ok (t.setReg x nn)

/-- 7XNN ADD Vx, byte (R141): no flag. -/
def execAddByte (x : Reg) (nn : Byte) (s : State) : Host.Outcome State Fault Refusal :=
  executing s fun t => .ok (t.setReg x (t.reg x + nn))

/-- 8XY0 LD Vx, Vy (R142). -/
def execLdReg (x y : Reg) (s : State) : Host.Outcome State Fault Refusal :=
  executing s fun t => .ok (t.setReg x (t.reg y))

/-- 8XY1 OR Vx, Vy (R143). -/
def execOrReg (x y : Reg) (s : State) : Host.Outcome State Fault Refusal :=
  executing s fun t => .ok (t.setReg x (t.reg x ||| t.reg y))

/-- 8XY2 AND Vx, Vy (R144). -/
def execAndReg (x y : Reg) (s : State) : Host.Outcome State Fault Refusal :=
  executing s fun t => .ok (t.setReg x (t.reg x &&& t.reg y))

/-- 8XY3 XOR Vx, Vy (R145). -/
def execXorReg (x y : Reg) (s : State) : Host.Outcome State Fault Refusal :=
  executing s fun t => .ok (t.setReg x (t.reg x ^^^ t.reg y))

/-- 8XY4 ADD Vx, Vy (R146). -/
def execAddReg (x y : Reg) (s : State) : Host.Outcome State Fault Refusal :=
  executing s fun t =>
    .ok (t.flagThenResult (carryFlag (t.reg x) (t.reg y)) x fun u => u.reg x + u.reg y)

/-- 8XY5 SUB Vx, Vy (R147). -/
def execSubReg (x y : Reg) (s : State) : Host.Outcome State Fault Refusal :=
  executing s fun t =>
    .ok (t.flagThenResult (notBorrowFlag (t.reg x) (t.reg y)) x fun u => u.reg x - u.reg y)

/-- 8XY6 SHR Vx (R148): Y is not read. -/
def execShr (x : Reg) (s : State) : Host.Outcome State Fault Refusal :=
  executing s fun t => .ok (t.flagThenResult (shrFlag (t.reg x)) x fun u => u.reg x >>> 1)

/-- 8XY7 SUBN Vx, Vy (R149). -/
def execSubnReg (x y : Reg) (s : State) : Host.Outcome State Fault Refusal :=
  executing s fun t =>
    .ok (t.flagThenResult (notBorrowFlag (t.reg y) (t.reg x)) x fun u => u.reg y - u.reg x)

/-- 8XYE SHL Vx (R150): Y is not read. -/
def execShl (x : Reg) (s : State) : Host.Outcome State Fault Refusal :=
  executing s fun t => .ok (t.flagThenResult (shlFlag (t.reg x)) x fun u => u.reg x <<< 1)

/-- CXNN RND Vx, byte (R152). -/
def execRnd (x : Reg) (nn : Byte) (s : State) : Host.Outcome State Fault Refusal :=
  executing s fun t => .ok (t.setReg x (t.rndByte &&& nn))

end Sys2Proof.Machine
end

