-- ==== Sys2Proof/Machine/Control.lean ====
section
/-! DEFINITION. Control transfer (40_control_flow.md). -/

namespace Sys2Proof.Machine

/-- 00EE RET (R111). -/
def execRet (s : State) : Host.Outcome State Fault Refusal :=
  executing s fun t => t.popPc

/-- 2NNN CALL addr (R112). -/
def execCall (nnn : Addr) (s : State) : Host.Outcome State Fault Refusal :=
  executing s fun t => t.pushPc.map fun u => u.setPc (zextAddr nnn)

/-- 1NNN JP addr (R113). -/
def execJp (nnn : Addr) (s : State) : Host.Outcome State Fault Refusal :=
  executing s fun t => .ok (t.setPc (zextAddr nnn))

/-- BNNN JP V0, addr (R114): unmasked, at most 0x10FE. -/
def execJpV0 (nnn : Addr) (s : State) : Host.Outcome State Fault Refusal :=
  executing s fun t => .ok (t.setPc (zextAddr nnn + zextByte (t.reg 0x0)))

/-- 3XNN SE Vx, byte (R115). -/
def execSeByte (x : Reg) (nn : Byte) (s : State) : Host.Outcome State Fault Refusal :=
  executing s fun t => .ok (t.skipIf (t.reg x == nn))

/-- 4XNN SNE Vx, byte (R116). -/
def execSneByte (x : Reg) (nn : Byte) (s : State) : Host.Outcome State Fault Refusal :=
  executing s fun t => .ok (t.skipIf (t.reg x != nn))

/-- 5XYn SE Vx, Vy, whatever n (R117). -/
def execSeReg (x y : Reg) (s : State) : Host.Outcome State Fault Refusal :=
  executing s fun t => .ok (t.skipIf (t.reg x == t.reg y))

/-- 9XYn SNE Vx, Vy, whatever n (R118). -/
def execSneReg (x y : Reg) (s : State) : Host.Outcome State Fault Refusal :=
  executing s fun t => .ok (t.skipIf (t.reg x != t.reg y))

end Sys2Proof.Machine
end

