-- ==== Sys2Proof/Machine/Draw.lean ====
section
/-! DEFINITION. The display instructions (43_display.md). -/

namespace Sys2Proof.Machine

/-- The coordinates a sprite is drawn at, as DRAW_COORD_LATCH says (R191, D12): the pair read before `VF <- 0`, or V[X]
and V[Y] as they now stand. -/
def State.drawCoords (s : State) (x y : Reg) (latched : Byte × Byte) : Byte × Byte :=
  match s.cfg.drawCoordLatch with
  | .latched => latched
  | .live => (s.reg x, s.reg y)

/-- `((y0 + i) * 64 + (x0 + j)) mod 2048`, in unbounded integers (R191, D13). -/
def pixelIndex (xy : Byte × Byte) (i j : Nat) : Nat :=
  ((xy.2.toNat + i) * 64 + (xy.1.toNat + j)) % 2048

/-- Toggle pixel `k`: VF is 1 where it was set (not 0x00, D29), and its byte is XORed with 0xFF (R191). -/
def State.togglePixel (s : State) (k : Nat) : State :=
  (if s.pixel k ≠ 0x00 then s.setReg .vf 1 else s).setPixel k (s.pixel k ^^^ 0xFF)

/-- One bit of a sprite row: bit j counted from the most significant (R191). -/
def State.drawBit (x y : Reg) (latched : Byte × Byte) (i : Nat) (row : Byte) (s : State) (j : Nat) :
    State :=
  if row.getMsbD j then s.togglePixel (pixelIndex (s.drawCoords x y latched) i j) else s

/-- One row of a sprite, read at I + i (R191). -/
def State.drawRow (x y : Reg) (latched : Byte × Byte) (s : State) (i : Nat) : State :=
  (List.range 8).foldl (State.drawBit x y latched i (s.readByte (s.effAddr i))) s

/-- The body of DXYN (R191), the range check apart: latch the coordinates, `VF <- 0`, the rows in order, `DRAW <- true`. -/
def State.drawSprite (s : State) (x y : Reg) (n : Nat) : State :=
  ((List.range n).foldl (State.drawRow x y (s.reg x, s.reg y)) (s.setReg .vf 0)).setDraw true

/-- 00E0 CLS (R190). -/
def execCls (s : State) : Host.Outcome State Fault Refusal :=
  executing s fun t => .ok (t.clearDisplay.setDraw true)

/-- DXYN DRW Vx, Vy, nibble (R191): N = 0 reads no memory and cannot fault. -/
def execDrw (x y : Reg) (n : Nibble) (s : State) : Host.Outcome State Fault Refusal :=
  executing s fun t =>
    if n.toNat = 0 then .ok (t.drawSprite x y 0)
    else t.checkRange (n.toNat - 1) (t.drawSprite x y n.toNat)

end Sys2Proof.Machine
end

