-- ==== Sys2Proof/Machine/Index.lean ====
section
/-! DEFINITION. The index register and memory transfers (42_index_memory.md); no access changes I (R176). -/

namespace Sys2Proof.Machine

/-- `for k in 0 .. n-1: V[k] <- MemRead(I + k, 1)` (R175). -/
def State.fillRegs (s : State) (n : Nat) : State :=
  (List.range n).foldl (fun t k => t.setReg (Fin.ofNat 16 k) (t.readByte (t.effAddr k))) s

/-- ANNN LD I, addr (R170). -/
def execLdI (nnn : Addr) (s : State) : Host.Outcome State Fault Refusal :=
  executing s fun t => .ok (t.setI (zextAddr nnn))

/-- FX1E ADD I, Vx (R171): 16 bits, no flag. -/
def execAddI (x : Reg) (s : State) : Host.Outcome State Fault Refusal :=
  executing s fun t => .ok (t.setI (t.i + zextByte (t.reg x)))

/-- FX29 LD F, Vx (R172). -/
def execLdF (x : Reg) (s : State) : Host.Outcome State Fault Refusal :=
  executing s fun t => .ok (t.setI (glyphAddr (t.reg x)))

/-- FX33 LD B, Vx (R173). -/
def execLdB (x : Reg) (s : State) : Host.Outcome State Fault Refusal :=
  executing s fun t => t.checkRange 2 (t.writeBytes (t.effAddr 0) (bcdDigits (t.reg x)))

/-- FX55 LD [I], Vx (R174). -/
def execStoreRegs (x : Reg) (s : State) : Host.Outcome State Fault Refusal :=
  executing s fun t => t.checkRange x.val (t.writeBytes (t.effAddr 0) (t.regsThrough x))

/-- FX65 LD Vx, [I] (R175). -/
def execLoadRegs (x : Reg) (s : State) : Host.Outcome State Fault Refusal :=
  executing s fun t => t.checkRange x.val (t.fillRegs (x.val + 1))

end Sys2Proof.Machine
end

