-- ==== Sys2Proof/Machine/KeysTimers.lean ====
section
/-! DEFINITION. Keypad and timer instructions (44_timers_keypad.md). -/

namespace Sys2Proof.Machine

/-- EX9E SKP Vx (R210). -/
def execSkp (x : Reg) (s : State) : Host.Outcome State Fault Refusal :=
  executing s fun t => (t.keyOperand x).map fun pressed => t.skipIf pressed

/-- EXA1 SKNP Vx (R211). -/
def execSknp (x : Reg) (s : State) : Host.Outcome State Fault Refusal :=
  executing s fun t => (t.keyOperand x).map fun pressed => t.skipIf (!pressed)

/-- FX07 LD Vx, DT (R212). -/
def execLdVxDt (x : Reg) (s : State) : Host.Outcome State Fault Refusal :=
  executing s fun t => .ok (t.setReg x t.dt)

/-- `V[x] <- k` for the key found, else `PC <- PC - 2` (R213). -/
def State.takeKey (s : State) (x : Reg) : Option Reg → State
  | some k => s.setReg x (BitVec.ofNat 8 k.val)
  | none => s.rewind

/-- FX0A LD Vx, K (R213). -/
def execLdVxK (x : Reg) (s : State) : Host.Outcome State Fault Refusal :=
  executing s fun t => .ok (t.takeKey x t.firstKey)

/-- FX15 LD DT, Vx (R214). -/
def execLdDtVx (x : Reg) (s : State) : Host.Outcome State Fault Refusal :=
  executing s fun t => .ok (t.setDt (t.reg x))

/-- FX18 LD ST, Vx (R215). -/
def execLdStVx (x : Reg) (s : State) : Host.Outcome State Fault Refusal :=
  executing s fun t => .ok (t.setSt (t.reg x))

end Sys2Proof.Machine
end

