-- ==== Sys2Proof/Machine/Unmapped.lean ====
section
/-! DEFINITION. The unmapped encodings (45_unmapped.md R240): the execute phase writes no state. -/

namespace Sys2Proof.Machine

/-- Family 0, unmapped (R240). -/
def execNop0 (s : State) : Host.Outcome State Fault Refusal := executing s .ok

/-- Family 8, unmapped (R240). -/
def execNop8 (s : State) : Host.Outcome State Fault Refusal := executing s .ok

/-- Family E, unmapped (R240). -/
def execNopE (s : State) : Host.Outcome State Fault Refusal := executing s .ok

/-- Family F, unmapped (R240). -/
def execNopF (s : State) : Host.Outcome State Fault Refusal := executing s .ok

end Sys2Proof.Machine
end

