-- ==== Sys2Proof/Machine/Step.lean ====
section
/-! DEFINITION. One Step (R89), over the phases of Cycle.lean and the dispatch of Dispatch.lean. -/

namespace Sys2Proof.Machine

/-- One Step (R89): stuck on a faulted machine (R253), a fault where the fetch is out of range (R90), else decode,
execute and the end of the step. -/
def step (s : State) : Host.Outcome State Fault Refusal :=
  match s.fault with
  | some _ => .next s.stuckStep
  | none =>
    match s.fetch with
    | none => .next s.fetchFault
    | some op => finishStep (exec (decode op) s)

/-- `s` with a table word stored where `step` fetches next: the two bytes at PC. -/
def State.withFetchWord (s : State) (nbits w : Nat) : State := s.placeWord (tableWordBytes nbits w)

end Sys2Proof.Machine
end

