-- ==== Sys2Proof/Machine/HostOps.lean ====
section
/-! DEFINITION. The host interface (R260): the eight operations, each one atomic transaction between steps, and runs of
them (R266). -/

namespace Sys2Proof.Machine

/-- Reset (R280): every state of the block at its reset value, FAULT cleared. The parameters and the inputs still to come
are not the block's (R47): they stay. -/
def State.hostReset (s : State) : State :=
  { State.resetWith s.cfg with rndIn := s.rndIn, draws := s.draws }

/-- What Load answers (R282). -/
inductive LoadStatus where
  | ok
  | emptyOrOversizedProgram
  deriving DecidableEq, Repr

/-- A buffer Load accepts: not empty and at most LOAD_CAP bytes (R282). -/
def loadAccepts (c : Config) (buf : List Byte) : Bool :=
  buf.length != 0 && decide (buf.length ≤ c.loadCap)

/-- Load(buf) (R282): all of it at 0x200, or nothing. -/
def State.load (s : State) (buf : List Byte) : LoadStatus × State :=
  if loadAccepts s.cfg buf then (.ok, s.writeBytes 0x200 buf) else (.emptyOrOversizedProgram, s)

/-- Step(rnd) (R89, R261): a Step whose input is `rnd`; its BEEP output is the `beep` of the state it answers. -/
def State.stepWith (s : State) (rnd : Byte) : Host.Outcome State Fault Refusal :=
  step { s with rndIn := rnd :: s.rndIn }

/-- WriteKeys(k) (R264). -/
def State.writeKeys (s : State) (k : Vector Bool 16) : State := { s with key := k }

/-- ReadDisplay (R262): DISP[0] to DISP[2047]. -/
def State.readDisplay (s : State) : List Byte := (List.range 2048).map s.pixel

/-- ClearDrawFlag (R263). -/
def State.clearDrawFlag (s : State) : State := s.setDraw false

/-- The code of FAULT, 0 for none (R251). -/
def faultCode : Option Fault → Nat
  | none => 0
  | some .fetchOutOfRange => 1
  | some .stackOverflow => 2
  | some .stackUnderflow => 3
  | some .memoryOutOfRange => 4
  | some .keyIndexOutOfRange => 5

/-- The host operations (R260). -/
inductive HostOp where
  | reset
  | load (buf : List Byte)
  | step (rnd : Byte)
  | writeKeys (k : Vector Bool 16)
  | readDisplay
  | readDrawFlag
  | clearDrawFlag
  | readFault
  deriving DecidableEq, Repr

/-- What the block returns (R260). -/
inductive HostReply where
  | done
  | loaded (r : LoadStatus)
  | stepped (beep : Bool)
  | display (bytes : List Byte)
  | drawFlag (b : Bool)
  | fault (k : Option Fault)
  deriving DecidableEq, Repr

/-- One host operation: the reply and the state after it. -/
def hostOp (o : HostOp) (s : State) : Host.Outcome (HostReply × State) Fault Refusal :=
  match o with
  | .reset => .next (.done, s.hostReset)
  | .load buf => .next (.loaded (s.load buf).1, (s.load buf).2)
  | .step rnd =>
    match s.stepWith rnd with
    | .next t => .next (.stepped t.beep, t)
    | .fault r => .fault r
    | .refused r => .refused r
  | .writeKeys k => .next (.done, s.writeKeys k)
  | .readDisplay => .next (.display s.readDisplay, s)
  | .readDrawFlag => .next (.drawFlag s.draw, s)
  | .clearDrawFlag => .next (.done, s.clearDrawFlag)
  | .readFault => .next (.fault s.fault, s)

/-- A run (R266): host operations in order, with their replies. -/
def hostRun : List HostOp → State → Host.Outcome (List HostReply × State) Fault Refusal
  | [], s => .next ([], s)
  | o :: os, s =>
    match hostOp o s with
    | .fault r => .fault r
    | .refused r => .refused r
    | .next (r, t) =>
      match hostRun os t with
      | .next (rs, u) => .next (r :: rs, u)
      | .fault k => .fault k
      | .refused k => .refused k

end Sys2Proof.Machine
end

