-- ==== Sys2Proof/Safety.lean ====
section
/-! DEFINITION. The terms claims use: safe states, the invariant, reachable states, what a step changes, and opcode words
written by their nibbles. -/

namespace Sys2Proof.Machine

/-! ## Safe states, the invariant, reachable states -/

/-- A state no fault has stopped (R45, R253): what a safe run stays in. -/
def State.safe (s : State) : Prop := s.fault = none

/-- What holds between steps in every run: the parameters are within R8, MEM and DISP are in canonical form (R60, R32),
every pixel is 0x00 or 0xFF (R193), PC and the return addresses stay in the range R26 and R111 give. -/
structure State.Inv (s : State) : Prop where
  /-- R8 -/
  cfgWf : s.cfg.wf = true
  /-- R60 -/
  memWf : Memory.wf s.cfg.font s.mem = true
  /-- R32 -/
  dispWf : Display.wf s.disp = true
  /-- R193 -/
  monochrome : ∀ k, s.pixel k = 0x00 ∨ s.pixel k = 0xFF
  /-- R26, R114: BNNN reaches 0x10FE at most, and nothing reaches more. -/
  pcBound : s.pc.toNat ≤ 0x10FE
  /-- R111: "The largest is 0x1000, pushed by a call at 0xFFE". -/
  stackBound : ∀ k : Fin 16, s.stack[k].toNat ≤ 0x1000

/-- A state that some run beginning with Reset comes to (R266, R283), for parameters within R8. -/
def Reachable (s : State) : Prop :=
  ∃ (c : Config) (ops : List HostOp) (replies : List HostReply),
    c.wf = true ∧ hostRun ops (State.resetWith c) = .next (replies, s)

/-! ## What a step changes -/

/-- The pieces of the state, each memory byte, register, stack entry and pixel by itself. -/
inductive Piece where
  | mem (a : Nat)
  | reg (k : Reg)
  | i
  | pc
  | sp
  | stack (k : Fin 16)
  | dt
  | st
  | key
  | pixel (k : Nat)
  | draw
  | fault
  | beep
  | rndIn
  | draws
  | cfg
  deriving DecidableEq, Repr

/-- A piece reads the same in two states. -/
def Piece.same (p : Piece) (s t : State) : Prop :=
  match p with
  | .mem a => t.readByte a = s.readByte a
  | .reg k => t.reg k = s.reg k
  | .i => t.i = s.i
  | .pc => t.pc = s.pc
  | .sp => t.sp = s.sp
  | .stack k => t.stack[k] = s.stack[k]
  | .dt => t.dt = s.dt
  | .st => t.st = s.st
  | .key => t.key = s.key
  | .pixel k => t.pixel k = s.pixel k
  | .draw => t.draw = s.draw
  | .fault => t.fault = s.fault
  | .beep => t.beep = s.beep
  | .rndIn => t.rndIn = s.rndIn
  | .draws => t.draws = s.draws
  | .cfg => t.cfg = s.cfg

/-- The frame of a change from `s` to `t`: every piece outside `w` reads as before. -/
def OnlyChanges (w : Piece → Prop) (s t : State) : Prop := ∀ p, ¬ w p → p.same s t

/-! ## Opcode words by their nibbles (R82) -/

/-- The word `f x y n`, one nibble each. -/
def word4 (f : Nat) (x y : Reg) (n : Nat) : Word := BitVec.ofNat 16 (f * 4096 + x.val * 256 + y.val * 16 + n)

/-- The word `f x nn`, nn two nibbles. -/
def wordXK (f : Nat) (x : Reg) (nn : Nat) : Word := BitVec.ofNat 16 (f * 4096 + x.val * 256 + nn)

/-- The word `f nnn`, nnn three nibbles. -/
def wordA (f nnn : Nat) : Word := BitVec.ofNat 16 (f * 4096 + nnn)

/-- The opcode at PC: `MEM[PC] * 256 + MEM[PC+1]` (R65). -/
def State.opcodeAtPc (s : State) : Word :=
  BitVec.ofNat 16 ((s.readByte s.pc.toNat).toNat * 256 + (s.readByte (s.pc.toNat + 1)).toNat)

/-- The next Step of `s` runs the instruction `i`: no fault has stopped the machine, PC is in the fetch range, and the
opcode at PC decodes to `i` (R89, R90). -/
def State.runs (s : State) (i : Instr) : Prop :=
  s.fault = none ∧ s.pc.toNat ≤ 0xFFE ∧ decode s.opcodeAtPc = i

/-! ## Spec terms of single rules -/

/-- A condition as 1 or 0: `c ? 1 : 0` (R11). -/
def bit (c : Prop) [Decidable c] : Nat := if c then 1 else 0

/-- V[k] as the SECOND statement of a flag-setting row reads it: VF holds the flag `f` just written (R153). -/
def State.regAfterFlag (s : State) (f : Nat) (k : Reg) : Nat := if k = 0xF then f else (s.reg k).toNat

/-- The execute phase of `i` completes and leaves the number `n` in V[k]. -/
def Leaves (i : Instr) (s : State) (k : Reg) (n : Nat) : Prop :=
  ∃ t, exec i s = .next t ∧ (t.reg k).toNat = n

/-- The state before the step with FAULT set and BEEP false (R252). -/
def State.faulted (s : State) (k : Fault) : State := { s with fault := some k, beep := false }

/-- The registers an instruction may write, the "writes" column of R22. -/
def writesReg (i : Instr) (k : Reg) : Prop :=
  match i with
  | .ldByte x _ | .addByte x _ | .ldReg x _ | .orReg x _ | .andReg x _ | .xorReg x _ | .rnd x _
  | .ldVxDt x | .ldVxK x => k = x
  | .addReg x _ | .subReg x _ | .subnReg x _ | .shr x _ | .shl x _ => k = x ∨ k = 0xF
  | .drw _ _ _ => k = 0xF
  | .loadRegs x => k ≤ x
  | .cls | .ret | .jp _ | .call _ | .jpV0 _ | .seByte _ _ | .sneByte _ _ | .seReg _ _ _ | .sneReg _ _ _
  | .ldI _ | .skp _ | .sknp _ | .ldDtVx _ | .ldStVx _ | .addI _ | .ldF _ | .ldB _ | .storeRegs _
  | .nop0 _ | .nop8 _ _ _ | .nopE _ _ | .nopF _ _ => False

/-- The largest offset from I of an instruction that accesses memory (R64); DXYN with N = 0 accesses none. -/
def maxOffset : Instr → Option Nat
  | .drw _ _ n => if n = 0 then none else some (n.toNat - 1)
  | .ldB _ => some 2
  | .storeRegs x | .loadRegs x => some x.val
  | .cls | .ret | .jp _ | .call _ | .jpV0 _ | .seByte _ _ | .sneByte _ _ | .seReg _ _ _ | .sneReg _ _ _
  | .ldByte _ _ | .addByte _ _ | .ldReg _ _ | .orReg _ _ | .andReg _ _ | .xorReg _ _ | .addReg _ _
  | .subReg _ _ | .shr _ _ | .subnReg _ _ | .shl _ _ | .rnd _ _ | .ldI _ | .skp _ | .sknp _
  | .ldVxDt _ | .ldVxK _ | .ldDtVx _ | .ldStVx _ | .addI _ | .ldF _
  | .nop0 _ | .nop8 _ _ _ | .nopE _ _ | .nopF _ _ => none

/-- An instruction that is a no-op of R240. -/
def isUnmapped : Instr → Bool
  | .nop0 _ | .nop8 _ _ _ | .nopE _ _ | .nopF _ _ => true
  | .cls | .ret | .jp _ | .call _ | .jpV0 _ | .seByte _ _ | .sneByte _ _ | .seReg _ _ _ | .sneReg _ _ _
  | .ldByte _ _ | .addByte _ _ | .ldReg _ _ | .orReg _ _ | .andReg _ _ | .xorReg _ _ | .addReg _ _
  | .subReg _ _ | .shr _ _ | .subnReg _ _ | .shl _ _ | .rnd _ _ | .ldI _ | .drw _ _ _ | .skp _ | .sknp _
  | .ldVxDt _ | .ldVxK _ | .ldDtVx _ | .ldStVx _ | .addI _ | .ldF _ | .ldB _ | .storeRegs _
  | .loadRegs _ => false

/-- Bit j of sprite row i, j counted from the most significant (R191). -/
def State.spriteBit (s : State) (i j : Nat) : Bool := (s.readByte (s.i.toNat + i)).getMsbD j

/-- The display index of bit (i, j) of a sprite at column `cx`, row `cy` (R191). -/
def spriteIndex (cx cy i j : Nat) : Nat := ((cy + i) * 64 + (cx + j)) % 2048

/-- The coordinate register V[k] where VF holds `c`, as DRAW_COORD_LATCH = live reads it (R191). -/
def State.liveCoord (s : State) (c : Nat) (k : Reg) : Nat := if k = 0xF then c else (s.reg k).toNat

/-- With live coordinates: bit (i, j) of the sprite is set and its pixel, for VF = 0, was set before the draw. -/
def State.liveStrikes (s : State) (x y : Reg) (i j : Nat) : Prop :=
  s.spriteBit i j = true ∧ s.pixel (spriteIndex (s.liveCoord 0 x) (s.liveCoord 0 y) i j) ≠ 0

/-- With live coordinates: some bit visited before (i, j) strikes, so VF is 1 when (i, j) is visited. -/
def State.struckBefore (s : State) (x y : Reg) (i j : Nat) : Prop :=
  ∃ i' j', j' < 8 ∧ (i' < i ∨ i' = i ∧ j' < j) ∧ s.liveStrikes x y i' j'

/-- What the pieces hold after Reset with parameters `c` (R48). -/
structure HasResetValues (c : Config) (t : State) : Prop where
  font : ∀ a : Fin 80, t.readByte a.val = c.font[a]
  zeroMemory : ∀ a, 0x050 ≤ a → t.readByte a = 0x00
  v : ∀ k, t.reg k = 0x00
  i : t.i = 0x0000
  pc : t.pc = 0x0200
  sp : t.sp = 0
  stack : ∀ k : Fin 16, t.stack[k] = 0x0000
  dt : t.dt = c.timerReset
  st : t.st = c.timerReset
  key : ∀ k : Fin 16, t.key[k] = false
  disp : ∀ k, t.pixel k = 0x00
  draw : t.draw = false
  fault : t.fault = none

end Sys2Proof.Machine
end

