-- ==== Sys2Proof/Certificates/Slice0/Obligations.lean ====
section
/-! DEFINITION. The statements for the provers. Each follows the rules its docstring names. -/

open Sys2Proof Sys2Proof.Machine

/-! ## Encoding (30_encoding.md, 45_unmapped.md) -/

/-- Words written out in the spec's examples decode to their instructions (R82, R94 and the examples of the rules). -/
def Obligations.OpcodeWordsOfTheExamplesDecode : Prop :=
  decode 0x00E0 = .cls ∧ decode 0x00EE = .ret ∧ decode 0x1204 = .jp 0x204 ∧ decode 0x2210 = .call 0x210 ∧
  decode 0x3310 = .seByte 0x3 0x10 ∧ decode 0x8127 = .subnReg 0x1 0x2 ∧ decode 0x820E = .shl 0x2 0x0 ∧
  decode 0xA300 = .ldI 0x300 ∧ decode 0xD011 = .drw 0x0 0x1 0x1 ∧ decode 0xE59E = .skp 0x5 ∧
  decode 0xF255 = .storeRegs 0x2 ∧ decode 0x8008 = .nop8 0x0 0x0 0x8

/-- Decoding the word, or the bytes, of a well-formed instruction gives it back with every operand (R82, R65). -/
def Obligations.DecodeOfEncodeIsIdentity : Prop :=
  ∀ i : Instr, i.wf = true →
    decode (encode i) = i ∧ ∀ rest, decodeBytes (encodeBytes i ++ rest) = .ok (i, rest)

/-- Every word is the word of exactly one well-formed instruction, the one it decodes to (R84). -/
def Obligations.EveryWordEncodesExactlyOneInstruction : Prop :=
  ∀ w : Word, (decode w).wf = true ∧ encode (decode w) = w ∧
    ∀ i : Instr, i.wf = true → encode i = w → i = decode w

/-- The decoder answers the row of the opcode table that holds, the fallback rows last (R85 to R88, R91). -/
def Obligations.DecodeFollowsTheOpcodeTable : Prop :=
  ∀ w : Word, (tableRow w).map OpcodeRow.mnemonic = some (decode w).mnemonic

/-- No word falls under two of the 34 patterns (R84). -/
def Obligations.NoTwoPatternsOverlap : Prop :=
  opcodeRows.Pairwise fun r q => ∀ w : Word, ¬ (r.holds w = true ∧ q.holds w = true)

/-- The unmapped words, family by family, are exactly those R241 lists, and its counts are right. The sub-selectors
are the spec's decisions D2, D3 and D4 (log 17). -/
def Obligations.UnmappedWordsAreExactlyTheListed : Prop :=
  (∀ w : Word,
    ((∃ nnn, decode w = .nop0 nnn) ↔
      w.toNat / 4096 = 0x0 ∧ w.toNat % 4096 ∉ [0x0E0, 0x0EE]) ∧
    ((∃ x y n, decode w = .nop8 x y n) ↔
      w.toNat / 4096 = 0x8 ∧ w.toNat % 16 ∈ [0x8, 0x9, 0xA, 0xB, 0xC, 0xD, 0xF]) ∧
    ((∃ x nn, decode w = .nopE x nn) ↔
      w.toNat / 4096 = 0xE ∧ w.toNat % 256 ∉ [0x9E, 0xA1]) ∧
    ((∃ x nn, decode w = .nopF x nn) ↔
      w.toNat / 4096 = 0xF ∧
        w.toNat % 256 ∉ [0x07, 0x0A, 0x15, 0x18, 0x1E, 0x29, 0x33, 0x55, 0x65])) ∧
  (List.range 4096).countP (fun k => isUnmapped (decode (wordA 0x0 k))) = 4094 ∧
  (List.range 4096).countP (fun k => isUnmapped (decode (wordA 0x8 k))) = 1792 ∧
  (List.range 4096).countP (fun k => isUnmapped (decode (wordA 0xE k))) = 4064 ∧
  (List.range 4096).countP (fun k => isUnmapped (decode (wordA 0xF k))) = 3952

/-! ## The step (R89, R90, R220, R221, R251 to R253) -/

/-- Where nothing has faulted and PC is in the fetch range, a Step is the execute phase of the instruction at PC, and after
it, unless that raised a fault, the timer phase (R65, R89, R90). That the Step uses up one input in the fields rndIn and
draws is the model's choice (log 4, log 7). -/
def Obligations.StepRunsTheDecodedInstruction : Prop :=
  ∀ (s t : State) (i : Instr), s.fault = none → s.pc.toNat ≤ 0xFFE →
    decode (BitVec.ofNat 16 ((s.readByte s.pc.toNat).toNat * 256 + (s.readByte (s.pc.toNat + 1)).toNat)) = i →
    exec i s = .next t →
    (t.fault = none → step s = .next
      { t with
        dt := BitVec.ofNat 8 (t.dt.toNat - 1), st := BitVec.ofNat 8 (t.st.toNat - 1),
        beep := decide (t.st.toNat = 1), rndIn := s.rndIn.tail, draws := s.draws + 1 }) ∧
    (∀ k, t.fault = some k → step s = .next { t with rndIn := s.rndIn.tail, draws := s.draws + 1 })

/-- The execute phase of every instruction in every state, and every Step, end in a next state (R84, R252, R253). That a
fault is a next state too is how the model holds R252 (log 1). -/
def Obligations.EveryStepEndsInANextState : Prop :=
  (∀ (i : Instr) (s : State), ∃ t, exec i s = .next t) ∧ ∀ s : State, ∃ t, step s = .next t

/-- The timer phase: both timers count down by one in every Step that completes, and stay at 0, and BEEP is true exactly where
ST was 1 (R220). -/
def Obligations.TimersCountOncePerCompletedStep : Prop :=
  ∀ (s t u : State) (i : Instr), s.runs i → exec i s = .next t → step s = .next u → u.fault = none →
    u.dt.toNat = t.dt.toNat - 1 ∧ u.st.toNat = t.st.toNat - 1 ∧ (u.beep = true ↔ t.st.toNat = 1)

/-- BEEP is true exactly in a Step that completes with ST = 1 at the start of its timer phase (R221). -/
def Obligations.BeepExactlyWhenSoundTimerGoesFromOne : Prop :=
  ∀ s u : State, step s = .next u →
    (u.beep = true ↔
      ∃ (i : Instr) (t : State), s.runs i ∧ exec i s = .next t ∧ t.fault = none ∧ t.st = 1)

/-- A timer no instruction writes counts the completed Steps: after n of them DT holds max(0, d - n), and the one BEEP
comes at the Step whose number is ST's first value (R281, R290). -/
def Obligations.UnwrittenTimersCountTheSteps : Prop :=
  ∀ (run : Nat → State) (n : Nat),
    (∀ m < n, step (run m) = .next (run (m + 1)) ∧ (run (m + 1)).fault = none) →
    ((∀ m < n, ∀ x, decode (run m).opcodeAtPc ≠ .ldDtVx x) →
      (run n).dt.toNat = (run 0).dt.toNat - n) ∧
    ((∀ m < n, ∀ x, decode (run m).opcodeAtPc ≠ .ldStVx x) →
      (run n).st.toNat = (run 0).st.toNat - n ∧
      ∀ m < n, ((run (m + 1)).beep = true ↔ (run 0).st.toNat = m + 1))

/-- When a Step raises each kind of fault, with the kind's code and what it leaves of PC and I (R251, the spec's decisions
D6 to D10, log 19). -/
def Obligations.FaultsAreRaisedExactlyWhenListed : Prop :=
  faultCode none = 0 ∧ faultCode (some .fetchOutOfRange) = 1 ∧ faultCode (some .stackOverflow) = 2 ∧
  faultCode (some .stackUnderflow) = 3 ∧ faultCode (some .memoryOutOfRange) = 4 ∧
  faultCode (some .keyIndexOutOfRange) = 5 ∧
  ∀ s u : State, s.fault = none → step s = .next u →
    (u.fault = some .fetchOutOfRange ↔ s.pc.toNat > 0xFFE) ∧
    (u.fault = some .stackOverflow ↔ ∃ nnn, s.runs (.call nnn) ∧ s.sp.val = 16) ∧
    (u.fault = some .stackUnderflow ↔ s.runs .ret ∧ s.sp.val = 0) ∧
    (u.fault = some .memoryOutOfRange ↔
      ∃ i k, s.runs i ∧ maxOffset i = some k ∧ s.i.toNat + k > 0xFFF) ∧
    (u.fault = some .keyIndexOutOfRange ↔
      ∃ x, (s.runs (.skp x) ∨ s.runs (.sknp x)) ∧ (s.reg x).toNat > 0xF) ∧
    (u.fault ≠ none → u.pc = s.pc ∧ u.i = s.i)

/-- A Step that faults is discarded whole: the state before it, with FAULT set and BEEP false (R252). Of the model's own
input fields nothing is said. Discarding is the spec's decision D10 (log 1, log 19). -/
def Obligations.FaultingStepIsDiscarded : Prop :=
  ∀ (s u : State) (k : Fault), s.fault = none → step s = .next u → u.fault = some k →
    u = { s with fault := some k, beep := false, rndIn := u.rndIn, draws := u.draws }

/-- A faulted machine is stuck: a Step changes no state of the block and does not beep, and of the host operations only
Reset clears FAULT (R253). The latch is
the spec's decision D10 (log 1, log 19). -/
def Obligations.FaultedMachineIsStuckUntilReset : Prop :=
  ∀ (s : State) (k : Fault), s.fault = some k →
    (∃ u, step s = .next u ∧ u = { s with beep := false, rndIn := u.rndIn, draws := u.draws }) ∧
    (∀ (o : HostOp) (r : HostReply) (t : State), hostOp o s = .next (r, t) →
      (o = .reset → t.fault = none) ∧ (o ≠ .reset → t.fault = some k) ∧
      (∀ rnd, o = .step rnd → r = .stepped false)) ∧
    ∀ buf : List Byte, buf ≠ [] → buf.length ≤ s.cfg.loadCap →
      ∀ j : Fin buf.length, (s.load buf).2.readByte (0x200 + j.val) = buf[j]

/-- Where each instruction leaves PC, `a` being the address it was fetched from (R120, which the spec marks as derived). -/
def Obligations.ProgramCounterAfterEachInstruction : Prop :=
  ∀ (s u : State) (i : Instr), s.runs i → step s = .next u → u.fault = none →
    match i with
    | .jp nnn => u.pc.toNat = nnn.toNat
    | .call nnn => u.pc.toNat = nnn.toNat
    | .jpV0 nnn => u.pc.toNat = nnn.toNat + (s.reg 0x0).toNat
    | .ret => ∃ k : Fin 16, s.sp.val = k.val + 1 ∧ u.pc = s.stack[k]
    | .seByte x nn => u.pc.toNat = s.pc.toNat + (if s.reg x = nn then 4 else 2)
    | .sneByte x nn => u.pc.toNat = s.pc.toNat + (if s.reg x = nn then 2 else 4)
    | .seReg x y _ => u.pc.toNat = s.pc.toNat + (if s.reg x = s.reg y then 4 else 2)
    | .sneReg x y _ => u.pc.toNat = s.pc.toNat + (if s.reg x = s.reg y then 2 else 4)
    | .skp x => ∃ k : Fin 16, (s.reg x).toNat = k.val ∧ u.pc.toNat = s.pc.toNat + (if s.key[k] then 4 else 2)
    | .sknp x => ∃ k : Fin 16, (s.reg x).toNat = k.val ∧ u.pc.toNat = s.pc.toNat + (if s.key[k] then 2 else 4)
    | .ldVxK _ => u.pc.toNat = s.pc.toNat + (if ∃ k : Fin 16, s.key[k] = true then 2 else 0)
    | _ => u.pc.toNat = s.pc.toNat + 2

/-! ## Control flow (40_control_flow.md) -/

/-- 00EE: fault at SP = 0, else SP is one less, PC the entry there, and nothing else changes (R111). The fault is the spec's
decision D6 (log 19). -/
def Obligations.ReturnPopsTheStackOrFaults : Prop :=
  decode 0x00EE = .ret ∧
  ∀ s : State,
    (s.sp.val = 0 → exec .ret s = .next (s.faulted .stackUnderflow)) ∧
    ∀ k : Fin 16, s.sp.val = k.val + 1 →
      ∃ t, exec .ret s = .next t ∧ t.sp.val = k.val ∧ t.pc = s.stack[k] ∧
        OnlyChanges (fun p => p = .sp ∨ p = .pc) s t

/-- 2NNN: fault at SP = 16, else the entry at SP is the call's address + 2, SP one more, PC the target (R112). The fault
is the spec's decision D6 (log 19). -/
def Obligations.CallPushesTheNextAddressOrFaults : Prop :=
  ∀ (nnn : Addr) (s : State),
    decode (wordA 0x2 nnn.toNat) = .call nnn ∧
    (s.sp.val = 16 → exec (.call nnn) s = .next (s.faulted .stackOverflow)) ∧
    ∀ k : Fin 16, s.sp.val = k.val →
      ∃ t, exec (.call nnn) s = .next t ∧ t.stack[k] = s.pc + 2 ∧ t.sp.val = k.val + 1 ∧
        t.pc.toNat = nnn.toNat ∧ OnlyChanges (fun p => p = .stack k ∨ p = .sp ∨ p = .pc) s t

/-- A call and then a return resume after the call, with SP as before (R111, R112, W8). -/
def Obligations.CallThenReturnResumesAfterTheCall : Prop :=
  ∀ (nnn : Addr) (s : State) (k : Fin 16), s.sp.val = k.val →
    ∃ t u, exec (.call nnn) s = .next t ∧ exec .ret t = .next u ∧ u.pc = s.pc + 2 ∧
      OnlyChanges (fun p => p = .stack k ∨ p = .pc) s u

/-- 1NNN loads PC and changes nothing else (R113). -/
def Obligations.JumpLoadsTheProgramCounter : Prop :=
  ∀ (nnn : Addr) (s : State),
    decode (wordA 0x1 nnn.toNat) = .jp nnn ∧
    ∃ t, exec (.jp nnn) s = .next t ∧ t.pc.toNat = nnn.toNat ∧ OnlyChanges (fun p => p = .pc) s t

/-- BNNN loads PC with NNN + V0 and changes nothing else (R114). That the sum is not masked is the spec's decision D27
(log 20). -/
def Obligations.JumpWithOffsetIsNotMasked : Prop :=
  ∀ (nnn : Addr) (s : State),
    decode (wordA 0xB nnn.toNat) = .jpV0 nnn ∧
    ∃ t, exec (.jpV0 nnn) s = .next t ∧ t.pc.toNat = nnn.toNat + (s.reg 0x0).toNat ∧
      OnlyChanges (fun p => p = .pc) s t

/-- 3XNN and 4XNN: PC moves past one or two instructions, and nothing else changes (R115, R116). -/
def Obligations.SkipsCompareARegisterWithAByte : Prop :=
  ∀ (x : Reg) (nn : Byte) (s : State),
    decode (wordXK 0x3 x nn.toNat) = .seByte x nn ∧ decode (wordXK 0x4 x nn.toNat) = .sneByte x nn ∧
    (∃ t, exec (.seByte x nn) s = .next t ∧ t.pc = s.pc + (if (s.reg x).toNat = nn.toNat then 4 else 2) ∧
      OnlyChanges (fun p => p = .pc) s t) ∧
    ∃ t, exec (.sneByte x nn) s = .next t ∧ t.pc = s.pc + (if (s.reg x).toNat = nn.toNat then 2 else 4) ∧
      OnlyChanges (fun p => p = .pc) s t

/-- 5XYn and 9XYn, for every n: PC moves past one or two instructions, and nothing else changes (R117, R118). That n is
ignored is the spec's decision D4 (log 17). -/
def Obligations.SkipsCompareTwoRegisters : Prop :=
  ∀ (x y : Reg) (n : Nibble) (s : State),
    decode (word4 0x5 x y n.toNat) = .seReg x y n ∧ decode (word4 0x9 x y n.toNat) = .sneReg x y n ∧
    (∃ t, exec (.seReg x y n) s = .next t ∧
      t.pc = s.pc + (if (s.reg x).toNat = (s.reg y).toNat then 4 else 2) ∧
      OnlyChanges (fun p => p = .pc) s t) ∧
    ∃ t, exec (.sneReg x y n) s = .next t ∧
      t.pc = s.pc + (if (s.reg x).toNat = (s.reg y).toNat then 2 else 4) ∧
      OnlyChanges (fun p => p = .pc) s t

/-! ## Register loads and the ALU (41_alu.md) -/

/-- 6XNN and 8XY0 to 8XY3 write V[X] and no flag (R140, R142 to R145). -/
def Obligations.LoadsAndLogicWriteOnlyTheirRegister : Prop :=
  ∀ (x y : Reg) (nn : Byte) (s : State),
    (decode (wordXK 0x6 x nn.toNat) = .ldByte x nn ∧
      ∃ t, exec (.ldByte x nn) s = .next t ∧ t.reg x = nn ∧ t.pc = s.pc + 2 ∧
        OnlyChanges (fun p => p = .reg x ∨ p = .pc) s t) ∧
    (decode (word4 0x8 x y 0x0) = .ldReg x y ∧
      ∃ t, exec (.ldReg x y) s = .next t ∧ t.reg x = s.reg y ∧ t.pc = s.pc + 2 ∧
        OnlyChanges (fun p => p = .reg x ∨ p = .pc) s t) ∧
    (decode (word4 0x8 x y 0x1) = .orReg x y ∧
      ∃ t, exec (.orReg x y) s = .next t ∧ t.reg x = s.reg x ||| s.reg y ∧ t.pc = s.pc + 2 ∧
        OnlyChanges (fun p => p = .reg x ∨ p = .pc) s t) ∧
    (decode (word4 0x8 x y 0x2) = .andReg x y ∧
      ∃ t, exec (.andReg x y) s = .next t ∧ t.reg x = s.reg x &&& s.reg y ∧ t.pc = s.pc + 2 ∧
        OnlyChanges (fun p => p = .reg x ∨ p = .pc) s t) ∧
    (decode (word4 0x8 x y 0x3) = .xorReg x y ∧
      ∃ t, exec (.xorReg x y) s = .next t ∧ t.reg x = s.reg x ^^^ s.reg y ∧ t.pc = s.pc + 2 ∧
        OnlyChanges (fun p => p = .reg x ∨ p = .pc) s t)

/-- 7XNN adds modulo 256 and sets no flag (R141). -/
def Obligations.AddByteWrapsWithoutAFlag : Prop :=
  ∀ (x : Reg) (nn : Byte) (s : State),
    decode (wordXK 0x7 x nn.toNat) = .addByte x nn ∧
    ∃ t, exec (.addByte x nn) s = .next t ∧
      (t.reg x).toNat = ((s.reg x).toNat + nn.toNat) % 256 ∧ t.pc = s.pc + 2 ∧
      OnlyChanges (fun p => p = .reg x ∨ p = .pc) s t

/-- 8XY4: VF takes the carry, then V[X] the sum modulo 256 of the registers as they then stand (R146). The order is
the spec's decision D5 (log 18). -/
def Obligations.AddRegistersSetsTheCarryFirst : Prop :=
  ∀ (x y : Reg) (s : State) (f : Nat), f = bit ((s.reg x).toNat + (s.reg y).toNat > 255) →
    decode (word4 0x8 x y 0x4) = .addReg x y ∧
    ∃ t, exec (.addReg x y) s = .next t ∧ (x ≠ 0xF → (t.reg 0xF).toNat = f) ∧
      (t.reg x).toNat = (s.regAfterFlag f x + s.regAfterFlag f y) % 256 ∧ t.pc = s.pc + 2 ∧
      OnlyChanges (fun p => p = .reg x ∨ p = .reg 0xF ∨ p = .pc) s t

/-- 8XY5 and 8XY7: VF takes the not-borrow, then V[X] the difference modulo 256 (R147, R149). The order is the spec's
decision D5 (log 18). -/
def Obligations.SubtractionsSetTheNotBorrowFirst : Prop :=
  ∀ (x y : Reg) (s : State) (f g : Nat),
    f = bit ((s.reg y).toNat ≤ (s.reg x).toNat) → g = bit ((s.reg x).toNat ≤ (s.reg y).toNat) →
    decode (word4 0x8 x y 0x5) = .subReg x y ∧ decode (word4 0x8 x y 0x7) = .subnReg x y ∧
    (∃ t, exec (.subReg x y) s = .next t ∧ (x ≠ 0xF → (t.reg 0xF).toNat = f) ∧
      (t.reg x).toNat = (256 + s.regAfterFlag f x - s.regAfterFlag f y) % 256 ∧ t.pc = s.pc + 2 ∧
      OnlyChanges (fun p => p = .reg x ∨ p = .reg 0xF ∨ p = .pc) s t) ∧
    ∃ t, exec (.subnReg x y) s = .next t ∧ (x ≠ 0xF → (t.reg 0xF).toNat = g) ∧
      (t.reg x).toNat = (256 + s.regAfterFlag g y - s.regAfterFlag g x) % 256 ∧ t.pc = s.pc + 2 ∧
      OnlyChanges (fun p => p = .reg x ∨ p = .reg 0xF ∨ p = .pc) s t

/-- 8XY6 and 8XYE: VF takes the bit shifted out, then V[X] is halved or doubled modulo 256; Y has no effect (R148,
R150). The order is the spec's decision D5 (log 18). -/
def Obligations.ShiftsSetTheBitShiftedOutFirst : Prop :=
  ∀ (x y : Reg) (s : State),
    decode (word4 0x8 x y 0x6) = .shr x y ∧ decode (word4 0x8 x y 0xE) = .shl x y ∧
    (∃ t, exec (.shr x y) s = .next t ∧ (x ≠ 0xF → (t.reg 0xF).toNat = (s.reg x).toNat % 2) ∧
      (t.reg x).toNat = s.regAfterFlag ((s.reg x).toNat % 2) x / 2 ∧ t.pc = s.pc + 2 ∧
      OnlyChanges (fun p => p = .reg x ∨ p = .reg 0xF ∨ p = .pc) s t) ∧
    ∃ t, exec (.shl x y) s = .next t ∧ (x ≠ 0xF → (t.reg 0xF).toNat = (s.reg x).toNat / 128) ∧
      (t.reg x).toNat = 2 * s.regAfterFlag ((s.reg x).toNat / 128) x % 256 ∧ t.pc = s.pc + 2 ∧
      OnlyChanges (fun p => p = .reg x ∨ p = .reg 0xF ∨ p = .pc) s t

/-- The outcomes of the flag-setting instructions with VF as an operand, row by row (R153, which the spec marks as derived,
D5, log 18). -/
def Obligations.FlagInstructionsOnVfAsTabulated : Prop :=
  ∀ (s : State) (r : Reg) (f v : Nat), r ≠ 0xF → f = (s.reg 0xF).toNat → v = (s.reg r).toNat →
    Leaves (.addReg 0xF r) s 0xF ((bit (f + v > 255) + v) % 256) ∧
    (Leaves (.addReg r 0xF) s 0xF (bit (v + f > 255)) ∧
      Leaves (.addReg r 0xF) s r ((v + bit (v + f > 255)) % 256)) ∧
    Leaves (.addReg 0xF 0xF) s 0xF (2 * bit (2 * f > 255)) ∧
    Leaves (.subReg 0xF r) s 0xF ((256 + (if v > f then 0 else 1) - v) % 256) ∧
    (Leaves (.subReg r 0xF) s 0xF (if f > v then 0 else 1) ∧
      Leaves (.subReg r 0xF) s r ((256 + v - (if f > v then 0 else 1)) % 256)) ∧
    Leaves (.subReg 0xF 0xF) s 0xF 0 ∧
    (∀ y, Leaves (.shr 0xF y) s 0xF 0) ∧
    Leaves (.subnReg 0xF r) s 0xF ((256 + v - (if f > v then 0 else 1)) % 256) ∧
    (Leaves (.subnReg r 0xF) s 0xF (if v > f then 0 else 1) ∧
      Leaves (.subnReg r 0xF) s r ((256 + (if v > f then 0 else 1) - v) % 256)) ∧
    Leaves (.subnReg 0xF 0xF) s 0xF 0 ∧
    (∀ y, Leaves (.shl 0xF y) s 0xF (2 * (f / 128)))

/-- CXNN: V[X] is the Step's random byte AND NN (R152): in Step(rnd) the byte rnd; in the model's own step the first
byte of rndIn, else some byte (the model's choice, log 4). -/
def Obligations.RandomByteIsMaskedByTheImmediate : Prop :=
  ∀ (x : Reg) (nn : Byte) (s : State),
    decode (wordXK 0xC x nn.toNat) = .rnd x nn ∧
    ∃ (t : State) (r : Byte), (∀ b rest, s.rndIn = b :: rest → r = b) ∧
      exec (.rnd x nn) s = .next t ∧ t.reg x = r &&& nn ∧ t.pc = s.pc + 2 ∧
      OnlyChanges (fun p => p = .reg x ∨ p = .pc) s t ∧
      ∀ rnd, s.runs (.rnd x nn) → ∃ u, s.stepWith rnd = .next u ∧ u.reg x = rnd &&& nn

/-- Every instruction but CXNN ignores the random input: with another input it does the same (R261). The fields that
hold the input are the model's choice (log 4). -/
def Obligations.OnlyRandomReadsTheRandomInput : Prop :=
  ∀ (i : Instr) (s t : State) (r : List Byte) (d : Nat), (∀ x nn, i ≠ .rnd x nn) →
    exec i s = .next t →
    exec i { s with rndIn := r, draws := d } = .next { t with rndIn := r, draws := d }

/-! ## Index register and memory transfers (42_index_memory.md, 20_memory.md) -/

/-- ANNN, FX1E and FX29 write I and no flag (R170 to R172). -/
def Obligations.IndexRegisterArithmetic : Prop :=
  ∀ (x : Reg) (nnn : Addr) (s : State),
    (decode (wordA 0xA nnn.toNat) = .ldI nnn ∧
      ∃ t, exec (.ldI nnn) s = .next t ∧ t.i.toNat = nnn.toNat ∧ t.pc = s.pc + 2 ∧
        OnlyChanges (fun p => p = .i ∨ p = .pc) s t) ∧
    (decode (wordXK 0xF x 0x1E) = .addI x ∧
      ∃ t, exec (.addI x) s = .next t ∧ t.i.toNat = (s.i.toNat + (s.reg x).toNat) % 65536 ∧
        t.pc = s.pc + 2 ∧ OnlyChanges (fun p => p = .i ∨ p = .pc) s t) ∧
    (decode (wordXK 0xF x 0x29) = .ldF x ∧
      ∃ t, exec (.ldF x) s = .next t ∧ t.i.toNat = (s.reg x).toNat * 5 ∧ t.pc = s.pc + 2 ∧
        OnlyChanges (fun p => p = .i ∨ p = .pc) s t)

/-- FX33 stores the three decimal digits at I, I + 1, I + 2 and nothing else, or faults (R173). The fault is the spec's decision
D7 (log 19). -/
def Obligations.DecimalDigitsAreStored : Prop :=
  ∀ (x : Reg) (s : State),
    decode (wordXK 0xF x 0x33) = .ldB x ∧
    (s.i.toNat + 2 > 0xFFF → exec (.ldB x) s = .next (s.faulted .memoryOutOfRange)) ∧
    (s.i.toNat + 2 ≤ 0xFFF →
      ∃ t, exec (.ldB x) s = .next t ∧
        (t.readByte s.i.toNat).toNat = (s.reg x).toNat / 100 ∧
        (t.readByte (s.i.toNat + 1)).toNat = (s.reg x).toNat / 10 % 10 ∧
        (t.readByte (s.i.toNat + 2)).toNat = (s.reg x).toNat % 100 % 10 ∧ t.pc = s.pc + 2 ∧
        OnlyChanges (fun p => p = .pc ∨ ∃ k ≤ 2, p = .mem (s.i.toNat + k)) s t)

/-- FX55 stores V0 to V[X] at I, I + 1, ... and nothing else, or faults (R174). The fault is the spec's decision
D7 (log 19). -/
def Obligations.RegistersAreStoredThroughX : Prop :=
  ∀ (x : Reg) (s : State),
    decode (wordXK 0xF x 0x55) = .storeRegs x ∧
    (s.i.toNat + x.val > 0xFFF → exec (.storeRegs x) s = .next (s.faulted .memoryOutOfRange)) ∧
    (s.i.toNat + x.val ≤ 0xFFF →
      ∃ t, exec (.storeRegs x) s = .next t ∧
        (∀ k : Reg, k ≤ x → t.readByte (s.i.toNat + k.val) = s.reg k) ∧ t.pc = s.pc + 2 ∧
        OnlyChanges (fun p => p = .pc ∨ ∃ k ≤ x.val, p = .mem (s.i.toNat + k)) s t)

/-- FX65 loads V0 to V[X] from I, I + 1, ... and changes nothing else, or faults (R175). The fault is the spec's decision
D7 (log 19). -/
def Obligations.RegistersAreLoadedThroughX : Prop :=
  ∀ (x : Reg) (s : State),
    decode (wordXK 0xF x 0x65) = .loadRegs x ∧
    (s.i.toNat + x.val > 0xFFF → exec (.loadRegs x) s = .next (s.faulted .memoryOutOfRange)) ∧
    (s.i.toNat + x.val ≤ 0xFFF →
      ∃ t, exec (.loadRegs x) s = .next t ∧
        (∀ k : Reg, k ≤ x → t.reg k = s.readByte (s.i.toNat + k.val)) ∧ t.pc = s.pc + 2 ∧
        OnlyChanges (fun p => p = .pc ∨ ∃ k ≤ x, p = .reg k) s t)

/-- What FX55 stored, FX65 at the same I loads back, whatever the registers hold by then (R175, W7). -/
def Obligations.StoreThenLoadRestoresTheRegisters : Prop :=
  ∀ (x : Reg) (s t u : State), s.i.toNat + x.val ≤ 0xFFF → exec (.storeRegs x) s = .next t →
    u.i = s.i → (∀ a, u.readByte a = t.readByte a) →
    ∃ w, exec (.loadRegs x) u = .next w ∧ ∀ k : Reg, k ≤ x → w.reg k = s.reg k

/-- Two bytes FX55 stored are the opcode a later fetch at their address reads, the lower one high (R73, R65). -/
def Obligations.StoredBytesAreFetchedAsAnOpcode : Prop :=
  ∀ (x j k : Reg) (s t u : State), s.i.toNat + x.val ≤ 0xFFF → k.val = j.val + 1 → k ≤ x →
    exec (.storeRegs x) s = .next t → (∀ a, u.readByte a = t.readByte a) →
    u.pc.toNat = s.i.toNat + j.val →
    u.fetch = some (BitVec.ofNat 16 ((s.reg j).toNat * 256 + (s.reg k).toNat))

/-- The range check: each memory instruction faults, with nothing else changed, exactly where its highest address is
above 0xFFF; DXYN with N = 0 never faults (R64). The check is the spec's decision D7
(log 19). -/
def Obligations.MemoryInstructionsCheckTheirHighestAddress : Prop :=
  ∀ (i : Instr) (s : State),
    (∀ k, maxOffset i = some k → s.i.toNat + k > 0xFFF →
      exec i s = .next (s.faulted .memoryOutOfRange)) ∧
    (∀ k, maxOffset i = some k → s.i.toNat + k ≤ 0xFFF →
      ∃ t, exec i s = .next t ∧ t.fault = s.fault ∧ t.pc = s.pc + 2) ∧
    ∀ x y, i = .drw x y 0 → ∃ t, exec i s = .next t ∧ t.fault = s.fault ∧ t.pc = s.pc + 2

/-! ## Display (43_display.md) -/

/-- 00E0 clears every pixel and sets DRAW (R190). -/
def Obligations.ClearDisplayZeroesEveryPixel : Prop :=
  decode 0x00E0 = .cls ∧
  ∀ s : State, ∃ t, exec .cls s = .next t ∧ (∀ k, t.pixel k = 0x00) ∧ t.draw = true ∧ t.pc = s.pc + 2 ∧
    OnlyChanges (fun p => p = .pc ∨ p = .draw ∨ ∃ k, p = .pixel k) s t

/-- DXYN with latched coordinates: exactly the pixels under a set bit of the sprite are toggled, each once; VF is 1 where
one of them was set, else 0; DRAW is set; nothing else changes (R191, R192). It rests on the spec's
decisions D12, D13 and D29 (log 20). -/
def Obligations.LatchedDrawTogglesExactlyTheSpritePixels : Prop :=
  ∀ (x y : Reg) (n : Nibble) (s : State),
    s.cfg.drawCoordLatch = .latched → (n.toNat = 0 ∨ s.i.toNat + (n.toNat - 1) ≤ 0xFFF) →
    decode (word4 0xD x y n.toNat) = .drw x y n ∧
    ∃ t, exec (.drw x y n) s = .next t ∧
      (∀ k, (∃ i < n.toNat, ∃ j < 8, s.spriteBit i j = true ∧
          spriteIndex (s.reg x).toNat (s.reg y).toNat i j = k) → t.pixel k = s.pixel k ^^^ 0xFF) ∧
      (t.reg 0xF = 0 ∨ t.reg 0xF = 1) ∧
      (t.reg 0xF = 1 ↔ ∃ i < n.toNat, ∃ j < 8, s.spriteBit i j = true ∧
        s.pixel (spriteIndex (s.reg x).toNat (s.reg y).toNat i j) ≠ 0x00) ∧
      t.draw = true ∧ t.pc = s.pc + 2 ∧
      OnlyChanges (fun p => p = .pc ∨ p = .draw ∨ p = .reg 0xF ∨
        ∃ i < n.toNat, ∃ j < 8, s.spriteBit i j = true ∧
          p = .pixel (spriteIndex (s.reg x).toNat (s.reg y).toNat i j)) s t

/-- DXYN with live coordinates: as latched, but a coordinate that is VF reads 0 until the first struck pixel and 1 after
it; exactly the pixels so addressed are toggled, each once (R191, R192). The parameter is the spec's decision
D12. -/
def Obligations.LiveDrawReadsVfAsItChanges : Prop :=
  ∀ (x y : Reg) (n : Nibble) (s : State) (c : Nat → Nat → Nat),
    s.cfg.drawCoordLatch = .live → (n.toNat = 0 ∨ s.i.toNat + (n.toNat - 1) ≤ 0xFFF) →
    (∀ i j, s.struckBefore x y i j → c i j = 1) → (∀ i j, ¬ s.struckBefore x y i j → c i j = 0) →
    ∃ t, exec (.drw x y n) s = .next t ∧
      (∀ k, (∃ i < n.toNat, ∃ j < 8, s.spriteBit i j = true ∧
          spriteIndex (s.liveCoord (c i j) x) (s.liveCoord (c i j) y) i j = k) →
        t.pixel k = s.pixel k ^^^ 0xFF) ∧
      (t.reg 0xF = 0 ∨ t.reg 0xF = 1) ∧
      (t.reg 0xF = 1 ↔ ∃ i < n.toNat, ∃ j < 8, s.spriteBit i j = true ∧
        s.pixel (spriteIndex (s.liveCoord (c i j) x) (s.liveCoord (c i j) y) i j) ≠ 0x00) ∧
      t.draw = true ∧ t.pc = s.pc + 2 ∧
      OnlyChanges (fun p => p = .pc ∨ p = .draw ∨ p = .reg 0xF ∨
        ∃ i < n.toNat, ∃ j < 8, s.spriteBit i j = true ∧
          p = .pixel (spriteIndex (s.liveCoord (c i j) x) (s.liveCoord (c i j) y) i j)) s t

/-- Drawing a sprite twice at the same place restores the display, and the second draw strikes where the first one lit a
pixel (R191, W5). The spec's corner sentence on VF asks only for a set bit (log 26). -/
def Obligations.DrawingTwiceRestoresTheDisplay : Prop :=
  ∀ (x y : Reg) (n : Nibble) (s : State), x ≠ 0xF → y ≠ 0xF →
    (n.toNat = 0 ∨ s.i.toNat + (n.toNat - 1) ≤ 0xFFF) →
    ∃ t u, exec (.drw x y n) s = .next t ∧ exec (.drw x y n) t = .next u ∧
      (∀ k, u.pixel k = s.pixel k) ∧
      ((∃ i < n.toNat, ∃ j < 8, s.spriteBit i j = true ∧
        s.pixel (spriteIndex (s.reg x).toNat (s.reg y).toNat i j) = 0x00) → u.reg 0xF = 1)

/-- DRAW is set by exactly 00E0 and DXYN, also with N = 0, and no instruction clears it (R33, R194). -/
def Obligations.DrawFlagIsSetByExactlyTheDisplayInstructions : Prop :=
  ∀ (i : Instr) (s t : State), s.fault = none → exec i s = .next t →
    (t.fault = none →
      (t.draw = true ↔ s.draw = true ∨ i = .cls ∨ ∃ x y n, i = .drw x y n)) ∧
    (t.fault ≠ none → t.draw = s.draw)

/-! ## Keys and timers (44_timers_keypad.md) -/

/-- EX9E and EXA1 skip on the level of key V[X], and fault where V[X] is above 0xF (R210, R211). The fault is the
spec's decision D9 (log 19). -/
def Obligations.KeySkipsTestTheKeyLevelOrFault : Prop :=
  ∀ (x : Reg) (s : State),
    decode (wordXK 0xE x 0x9E) = .skp x ∧ decode (wordXK 0xE x 0xA1) = .sknp x ∧
    ((s.reg x).toNat > 0xF →
      exec (.skp x) s = .next (s.faulted .keyIndexOutOfRange) ∧
      exec (.sknp x) s = .next (s.faulted .keyIndexOutOfRange)) ∧
    ∀ k : Fin 16, (s.reg x).toNat = k.val →
      (∃ t, exec (.skp x) s = .next t ∧ t.pc = s.pc + (if s.key[k] then 4 else 2) ∧
        OnlyChanges (fun p => p = .pc) s t) ∧
      ∃ t, exec (.sknp x) s = .next t ∧ t.pc = s.pc + (if s.key[k] then 2 else 4) ∧
        OnlyChanges (fun p => p = .pc) s t

/-- FX07, FX15 and FX18 move between V[X] and the timers; the same Step then counts the new value, and FX18 of 1 beeps in
its own Step (R212, R214, R215). What their own Step leaves is marked as derived by the spec. -/
def Obligations.TimerTransfersAndTheirOwnStep : Prop :=
  ∀ (x : Reg) (s : State),
    decode (wordXK 0xF x 0x07) = .ldVxDt x ∧ decode (wordXK 0xF x 0x15) = .ldDtVx x ∧
    decode (wordXK 0xF x 0x18) = .ldStVx x ∧
    (∃ t, exec (.ldVxDt x) s = .next t ∧ t.reg x = s.dt ∧ t.pc = s.pc + 2 ∧
      OnlyChanges (fun p => p = .reg x ∨ p = .pc) s t) ∧
    (∃ t, exec (.ldDtVx x) s = .next t ∧ t.dt = s.reg x ∧ t.pc = s.pc + 2 ∧
      OnlyChanges (fun p => p = .dt ∨ p = .pc) s t) ∧
    (∃ t, exec (.ldStVx x) s = .next t ∧ t.st = s.reg x ∧ t.pc = s.pc + 2 ∧
      OnlyChanges (fun p => p = .st ∨ p = .pc) s t) ∧
    (s.runs (.ldVxDt x) → ∃ u, step s = .next u ∧ u.reg x = s.dt ∧ u.dt.toNat = s.dt.toNat - 1) ∧
    (s.runs (.ldDtVx x) → ∃ u, step s = .next u ∧ u.dt.toNat = (s.reg x).toNat - 1) ∧
    (s.runs (.ldStVx x) → ∃ u, step s = .next u ∧ u.st.toNat = (s.reg x).toNat - 1 ∧
      (u.beep = true ↔ s.reg x = 1))

/-- FX0A takes the lowest pressed key, or leaves PC at itself and changes nothing; a waiting Step still counts the timers
(R213). -/
def Obligations.WaitForKeyTakesTheLowestKeyOrWaits : Prop :=
  ∀ (x : Reg) (s : State),
    decode (wordXK 0xF x 0x0A) = .ldVxK x ∧
    (∀ k : Fin 16, s.key[k] = true → (∀ j : Fin 16, j < k → s.key[j] = false) →
      ∃ t, exec (.ldVxK x) s = .next t ∧ (t.reg x).toNat = k.val ∧ t.pc = s.pc + 2 ∧
        OnlyChanges (fun p => p = .reg x ∨ p = .pc) s t) ∧
    ((∀ k : Fin 16, s.key[k] = false) →
      (∃ t, exec (.ldVxK x) s = .next t ∧ OnlyChanges (fun _ => False) s t) ∧
      (s.runs (.ldVxK x) → ∃ u, step s = .next u ∧ u.pc = s.pc ∧ u.dt.toNat = s.dt.toNat - 1 ∧
        u.st.toNat = s.st.toNat - 1 ∧ (u.beep = true ↔ s.st = 1)))

/-! ## Unmapped encodings (45_unmapped.md) -/

/-- The four kinds of unmapped word advance PC and change nothing else, and their Step counts the timers (R240). -/
def Obligations.UnmappedWordsAreNoOps : Prop :=
  ∀ (i : Instr) (s : State),
    ((∃ nnn, i = .nop0 nnn) ∨ (∃ x y n, i = .nop8 x y n) ∨ (∃ x nn, i = .nopE x nn) ∨
      ∃ x nn, i = .nopF x nn) →
    (∃ t, exec i s = .next t ∧ t.pc = s.pc + 2 ∧ OnlyChanges (fun p => p = .pc) s t) ∧
    (s.runs i → ∃ u, step s = .next u ∧ u.pc = s.pc + 2 ∧ u.dt.toNat = s.dt.toNat - 1 ∧
      u.st.toNat = s.st.toNat - 1)

/-! ## The whole machine -/

/-- V registers change only as the access table says: an instruction writes no register its row does not list (R22,
R23). -/
def Obligations.RegistersChangeOnlyAsTheAccessTableSays : Prop :=
  ∀ (i : Instr) (s t : State) (k : Reg), exec i s = .next t → ¬ writesReg i k → t.reg k = s.reg k

/-- Every other piece of state changes only in the instructions the spec names as its writers; KEY, the parameters and the
inputs in none (R24, R27, R28, R29, R30, R31, R32, R60, R176). -/
def Obligations.EachPieceChangesOnlyInItsWriters : Prop :=
  ∀ (i : Instr) (s t : State), exec i s = .next t →
    t.key = s.key ∧ t.cfg = s.cfg ∧ t.rndIn = s.rndIn ∧ t.draws = s.draws ∧
    (t.i ≠ s.i → (∃ nnn, i = .ldI nnn) ∨ (∃ x, i = .addI x) ∨ ∃ x, i = .ldF x) ∧
    (t.sp ≠ s.sp → i = .ret ∨ ∃ nnn, i = .call nnn) ∧
    (∀ k : Fin 16, t.stack[k] ≠ s.stack[k] → k.val = s.sp.val ∧ ∃ nnn, i = .call nnn) ∧
    (t.dt ≠ s.dt → ∃ x, i = .ldDtVx x) ∧
    (t.st ≠ s.st → ∃ x, i = .ldStVx x) ∧
    (∀ a, t.readByte a ≠ s.readByte a →
      ∃ k, maxOffset i = some k ∧ s.i.toNat ≤ a ∧ a ≤ s.i.toNat + k ∧ a ≤ 0xFFF ∧
        ((∃ x, i = .ldB x) ∨ ∃ x, i = .storeRegs x)) ∧
    (∀ k, t.pixel k ≠ s.pixel k → i = .cls ∨ ∃ x y n, i = .drw x y n)

/-- The state after Reset meets the invariant, for all parameters within R8: every pixel is 0x00 and PC and the return
addresses are in range (R48, R193). The canonical form of memory and display is the model's (log 8, log 10). -/
def Obligations.ResetMeetsTheInvariant : Prop :=
  State.reset.Inv ∧ ∀ c : Config, c.wf = true → (State.resetWith c).Inv

/-- The invariant is kept by every Step from every state that meets it: memory and display canonical, every pixel 0x00 or
0xFF, PC and the return addresses in range (R26, R60, R111, R193). The
canonical form is the model's (log 8, log 10). -/
def Obligations.EveryStepKeepsTheInvariant : Prop :=
  ∀ s t : State, s.Inv → step s = .next t → t.Inv

/-- The invariant holds in every state a run of host operations from Reset comes to (R260, R266, R193). Its canonical form
of memory and display is the model's (log 8, log 10), and so is a run as a list of operations (log 24). -/
def Obligations.EveryReachableStateMeetsTheInvariant : Prop :=
  ∀ s : State, Reachable s → s.Inv

/-! ## The host interface (60_exceptions.md, 70_reset_and_hazards.md) -/

/-- Reset gives every piece of state its reset value, from any state, a faulted one too; so does `State.resetWith`, and
TIMER_RESET is 60 by default (R48, R280). Clearing FAULT and the parameter are the spec's decisions D10 and
D15 (log 1, log 3). -/
def Obligations.ResetGivesEveryPieceItsValue : Prop :=
  (∀ s : State, ∃ t, hostOp .reset s = .next (.done, t) ∧ HasResetValues s.cfg t) ∧
  (∀ c : Config, HasResetValues c (State.resetWith c)) ∧
  HasResetValues Config.default State.reset ∧ Config.default.timerReset = 60

/-- Load copies all of an acceptable buffer to 0x200 and changes nothing else; it refuses an empty or oversized one
without any change (R282). What it leaves alone and LOAD_CAP are the spec's
decisions D25 and D16 (log 20, log 3). -/
def Obligations.LoadCopiesAllOrNothing : Prop :=
  Config.default.loadCap = 3232 ∧ (∀ c : Config, c.wf = true ↔ 1 ≤ c.loadCap ∧ c.loadCap ≤ 3584) ∧
  ∀ (s : State) (buf : List Byte),
    (buf.length = 0 ∨ buf.length > s.cfg.loadCap → s.load buf = (.emptyOrOversizedProgram, s)) ∧
    (0 < buf.length → buf.length ≤ s.cfg.loadCap →
      ∃ t, s.load buf = (.ok, t) ∧ (∀ k : Fin buf.length, t.readByte (0x200 + k.val) = buf[k]) ∧
        OnlyChanges (fun p => ∃ k < buf.length, p = .mem (0x200 + k)) s t)

/-- The host reads every pixel, and reads and clears DRAW but cannot set it, which is the spec's decision D28 (R262, R263;
log 24). -/
def Obligations.HostReadsTheDisplayAndTheDrawFlag : Prop :=
  ∀ s : State,
    (s.readDisplay.length = 2048 ∧
      (∀ x y, x < 64 → y < 32 → s.readDisplay[y * 64 + x]? = some (s.pixel (y * 64 + x))) ∧
      (s.Inv → ∀ b ∈ s.readDisplay, b = 0x00 ∨ b = 0xFF) ∧
      hostOp .readDisplay s = .next (.display s.readDisplay, s)) ∧
    (hostOp .readDrawFlag s = .next (.drawFlag s.draw, s) ∧
      ∃ t, hostOp .clearDrawFlag s = .next (.done, t) ∧ t.draw = false ∧
        OnlyChanges (fun p => p = .draw) s t) ∧
    ∀ (o : HostOp) (r : HostReply) (t : State), hostOp o s = .next (r, t) →
      (∀ rnd, o ≠ .step rnd) → t.draw = true → s.draw = true

/-- The host writes the keys, and they stay until the next WriteKeys or Reset: no other operation and no Step changes
them (R264). -/
def Obligations.KeysAreWrittenByTheHostAlone : Prop :=
  ∀ s : State,
    (∀ k : Vector Bool 16, ∃ t, hostOp (.writeKeys k) s = .next (.done, t) ∧
      (∀ j : Fin 16, t.key[j] = k[j]) ∧ OnlyChanges (fun p => p = .key) s t) ∧
    (∀ (o : HostOp) (r : HostReply) (t : State), hostOp o s = .next (r, t) →
      o ≠ .reset → (∀ k, o ≠ .writeKeys k) → t.key = s.key) ∧
    ∀ t, step s = .next t → t.key = s.key

/-- The invariant is kept by every host operation from every state that meets it: Reset, Load of any buffer, a Step with any
random byte, any keys (R260, R193). Its canonical form of memory and display is the model's (log 8, log 10), and so are
the operations as functions (log 24). -/
def Obligations.EveryHostOperationKeepsTheInvariant : Prop :=
  ∀ (o : HostOp) (s t : State) (r : HostReply), s.Inv → hostOp o s = .next (r, t) → t.Inv
end

