-- ==== Sys2Proof/Laws/Cells.lean ====
section
/-! SUPPORT. The laws of sparse byte arrays: a read gives the last write, a write keeps the canonical form. -/

namespace Sys2Proof.Machine

variable {init : Nat → Byte} {size a b lo : Nat} {v : Byte} {c : Cells}

theorem Cells.read_put (init : Nat → Byte) (c : Cells) (a b : Nat) (v : Byte) :
    Cells.read init (Cells.put a v c) b = if b = a then v else Cells.read init c b := by
  induction c with
  | nil => simp [Cells.put, Cells.read]
  | cons e rest ih =>
    obtain ⟨k, w⟩ := e
    simp only [Cells.put]
    split
    · simp [Cells.read]
    · split
      · next h => subst h; by_cases hb : b = a <;> simp [Cells.read, hb]
      · next h => by_cases hb : b = k <;> simp_all [Cells.read, eq_comm]

theorem Cells.read_drop (init : Nat → Byte) (c : Cells) (a b : Nat) :
    Cells.read init (Cells.drop a c) b = if b = a then init a else Cells.read init c b := by
  induction c with
  | nil => by_cases hb : b = a <;> simp [Cells.drop, Cells.read, hb]
  | cons e rest ih =>
    obtain ⟨k, w⟩ := e
    simp only [Cells.drop] at ih ⊢
    by_cases hk : k = a
    · subst hk; simp only [List.filter_cons, bne_self_eq_false, Bool.false_eq_true, if_false, ih]
      by_cases hb : b = k <;> simp [Cells.read, hb]
    · simp only [List.filter_cons, bne_iff_ne, ne_eq, hk, not_false_eq_true, if_true, Cells.read, ih]
      by_cases hb : b = k
      · simp [hb, hk]
      · simp [hb]

/-- A read gives what was written last. -/
theorem Cells.read_write (init : Nat → Byte) (c : Cells) (a b : Nat) (v : Byte) :
    Cells.read init (Cells.write init c a v) b = if b = a then v else Cells.read init c b := by
  unfold Cells.write
  split
  · next h => rw [Cells.read_drop, h]
  · exact Cells.read_put ..

theorem Cells.risingAbove_mono {lo lo' : Nat} (h : lo' ≤ lo) (hc : Cells.risingAbove lo c = true) :
    Cells.risingAbove lo' c = true := by
  cases c with
  | nil => rfl
  | cons e rest =>
    simp only [Cells.risingAbove, Bool.and_eq_true, decide_eq_true_eq] at hc ⊢
    exact ⟨by omega, hc.2⟩

theorem Cells.risingAbove_put (hlo : lo < a) (hc : Cells.risingAbove lo c = true) :
    Cells.risingAbove lo (Cells.put a v c) = true := by
  induction c generalizing lo with
  | nil => simp [Cells.put, Cells.risingAbove, hlo]
  | cons e rest ih =>
    simp only [Cells.risingAbove, Bool.and_eq_true, decide_eq_true_eq] at hc
    simp only [Cells.put]
    split
    · simp_all [Cells.risingAbove]
    · split
      · simp_all [Cells.risingAbove]
      · simp only [Cells.risingAbove, Bool.and_eq_true, decide_eq_true_eq]
        exact ⟨hc.1, ih (by omega) hc.2⟩

theorem Cells.risingAbove_drop (hc : Cells.risingAbove lo c = true) :
    Cells.risingAbove lo (Cells.drop a c) = true := by
  induction c generalizing lo with
  | nil => rfl
  | cons e rest ih =>
    simp only [Cells.risingAbove, Bool.and_eq_true, decide_eq_true_eq] at hc
    simp only [Cells.drop, List.filter_cons]
    split
    · simp only [Cells.risingAbove, Bool.and_eq_true, decide_eq_true_eq]
      exact ⟨hc.1, ih hc.2⟩
    · exact Cells.risingAbove_mono (by omega) (ih hc.2)

theorem Cells.rising_put (hc : Cells.rising c = true) : Cells.rising (Cells.put a v c) = true := by
  cases c with
  | nil => rfl
  | cons e rest =>
    simp only [Cells.rising] at hc
    simp only [Cells.put]
    split
    · simp_all [Cells.rising, Cells.risingAbove]
    · split
      · simp_all [Cells.rising]
      · exact Cells.risingAbove_put (by omega) hc

theorem Cells.rising_of_risingAbove (hc : Cells.risingAbove lo c = true) : Cells.rising c = true := by
  cases c with
  | nil => rfl
  | cons e rest => simp_all [Cells.rising, Cells.risingAbove]

theorem Cells.rising_drop (hc : Cells.rising c = true) : Cells.rising (Cells.drop a c) = true := by
  cases c with
  | nil => rfl
  | cons e rest =>
    simp only [Cells.rising] at hc
    simp only [Cells.drop, List.filter_cons]
    split
    · exact Cells.risingAbove_drop hc
    · exact Cells.rising_of_risingAbove (Cells.risingAbove_drop hc)

theorem Cells.mem_put {e : Host.Cell} (he : e ∈ Cells.put a v c) : e = (a, v) ∨ e ∈ c := by
  induction c with
  | nil => simpa [Cells.put] using he
  | cons f rest ih =>
    simp only [Cells.put] at he
    split at he
    · simpa using he
    · split at he
      · rcases List.mem_cons.mp he with h | h
        · exact .inl h
        · exact .inr (List.mem_cons_of_mem _ h)
      · rcases List.mem_cons.mp he with h | h
        · exact .inr (by simp [h])
        · exact (ih h).imp id (List.mem_cons_of_mem _)

/-- A write inside the array keeps the canonical form. -/
theorem Cells.wf_write (ha : a < size) (hc : Cells.wf init size c = true) :
    Cells.wf init size (Cells.write init c a v) = true := by
  simp only [Cells.wf, Bool.and_eq_true, List.all_eq_true] at hc ⊢
  unfold Cells.write
  split
  · exact ⟨Cells.rising_drop hc.1, fun e he => hc.2 e (List.mem_of_mem_filter he)⟩
  · next hv =>
    refine ⟨Cells.rising_put hc.1, fun e he => ?_⟩
    rcases Cells.mem_put he with h | h
    · simp [h, ha, hv]
    · exact hc.2 e h

/-- The empty list is canonical. -/
@[simp] theorem Cells.wf_nil : Cells.wf init size [] = true := rfl

/-- In a canonical array, an address outside it reads as an unlisted one. -/
theorem Cells.read_outside (hc : Cells.wf init size c = true) (ha : size ≤ a) :
    Cells.read init c a = init a := by
  simp only [Cells.wf, Bool.and_eq_true, List.all_eq_true, decide_eq_true_eq] at hc
  have h := hc.2
  clear hc
  induction c with
  | nil => rfl
  | cons e rest ih =>
    have he := (h e (by simp)).1
    rw [Cells.read, if_neg (by omega), ih fun f hf => h f (List.mem_cons_of_mem _ hf)]

end Sys2Proof.Machine
end

