-- ==== Sys2Proof/Laws/Decode.lean ====
section
/-! SUPPORT. The fields of an opcode word written by its nibbles, and the encoder's formats as such words. -/

namespace Sys2Proof.Machine

/-! ## Fields as numbers (R81) -/

theorem familyOf_toNat (op : Word) : (familyOf op).toNat = op.toNat / 4096 % 16 := by
  simp [familyOf, BitVec.extractLsb'_toNat, Nat.shiftRight_eq_div_pow]

theorem xOf_val (op : Word) : (xOf op).val = op.toNat / 256 % 16 := by
  simp [xOf, BitVec.extractLsb', Nat.shiftRight_eq_div_pow]

theorem yOf_val (op : Word) : (yOf op).val = op.toNat / 16 % 16 := by
  simp [yOf, BitVec.extractLsb', Nat.shiftRight_eq_div_pow]

theorem nOf_toNat (op : Word) : (nOf op).toNat = op.toNat % 16 := by
  simp [nOf, BitVec.extractLsb'_toNat]

theorem nnOf_toNat (op : Word) : (nnOf op).toNat = op.toNat % 256 := by
  simp [nnOf, BitVec.extractLsb'_toNat]

theorem nnnOf_toNat (op : Word) : (nnnOf op).toNat = op.toNat % 4096 := by
  simp [nnnOf, BitVec.extractLsb'_toNat]

/-! ## Words written by nibbles (R82) -/

section
variable {f n : Nat} (x y : Reg)

theorem word4_toNat (hf : f < 16) (hn : n < 16) :
    (word4 f x y n).toNat = f * 4096 + x.val * 256 + y.val * 16 + n := by
  simp only [word4, BitVec.toNat_ofNat]; omega

theorem wordXK_toNat (hf : f < 16) (hn : n < 256) :
    (wordXK f x n).toNat = f * 4096 + x.val * 256 + n := by
  simp only [wordXK, BitVec.toNat_ofNat]; omega

theorem wordA_toNat (hf : f < 16) (hn : n < 4096) : (wordA f n).toNat = f * 4096 + n := by
  simp only [wordA, BitVec.toNat_ofNat]; omega

theorem familyOf_wordA (hf : f < 16) (nnn : Addr) : (familyOf (wordA f nnn.toNat)).toNat = f := by
  rw [familyOf_toNat, wordA_toNat hf nnn.isLt]; omega

theorem nnnOf_wordA (hf : f < 16) (nnn : Addr) : nnnOf (wordA f nnn.toNat) = nnn := by
  apply BitVec.eq_of_toNat_eq
  rw [nnnOf_toNat, wordA_toNat hf nnn.isLt]; omega

theorem familyOf_wordXK (hf : f < 16) (hn : n < 256) : (familyOf (wordXK f x n)).toNat = f := by
  rw [familyOf_toNat, wordXK_toNat x hf hn]; omega

theorem xOf_wordXK (hf : f < 16) (hn : n < 256) : xOf (wordXK f x n) = x := by
  apply Fin.ext
  rw [xOf_val, wordXK_toNat x hf hn]; omega

theorem nnOf_wordXK (hf : f < 16) (hn : n < 256) : nnOf (wordXK f x n) = BitVec.ofNat 8 n := by
  apply BitVec.eq_of_toNat_eq
  rw [nnOf_toNat, wordXK_toNat x hf hn, BitVec.toNat_ofNat]; omega

theorem familyOf_word4 (hf : f < 16) (hn : n < 16) : (familyOf (word4 f x y n)).toNat = f := by
  rw [familyOf_toNat, word4_toNat x y hf hn]; omega

theorem xOf_word4 (hf : f < 16) (hn : n < 16) : xOf (word4 f x y n) = x := by
  apply Fin.ext
  rw [xOf_val, word4_toNat x y hf hn]; omega

theorem yOf_word4 (hf : f < 16) (hn : n < 16) : yOf (word4 f x y n) = y := by
  apply Fin.ext
  rw [yOf_val, word4_toNat x y hf hn]; omega

theorem nOf_word4 (hf : f < 16) (hn : n < 16) : nOf (word4 f x y n) = BitVec.ofNat 4 n := by
  apply BitVec.eq_of_toNat_eq
  rw [nOf_toNat, word4_toNat x y hf hn, BitVec.toNat_ofNat]; omega

end

/-! ## The encoder's formats -/

theorem regNibble_toNat (x : Reg) : (regNibble x).toNat = x.val := rfl

theorem opcodeOfBytes_eq (hi lo : Byte) :
    opcodeOfBytes hi lo = BitVec.ofNat 16 (hi.toNat * 256 + lo.toNat) := by
  apply BitVec.eq_of_toNat_eq
  have := lo.isLt
  have := hi.isLt
  simp only [opcodeOfBytes, BitVec.toNat_append, BitVec.toNat_ofNat]
  rw [← Nat.shiftLeft_add_eq_or_of_lt lo.isLt, Nat.shiftLeft_eq]
  omega

theorem formatA_eq (f : Nibble) (nnn : Addr) : formatA f nnn = wordA f.toNat nnn.toNat := by
  apply BitVec.eq_of_toNat_eq
  rw [wordA_toNat f.isLt nnn.isLt]
  simp only [formatA, BitVec.toNat_append]
  rw [← Nat.shiftLeft_add_eq_or_of_lt nnn.isLt, Nat.shiftLeft_eq]

theorem formatXK_eq (f : Nibble) (x : Reg) (nn : Byte) : formatXK f x nn = wordXK f.toNat x nn.toNat := by
  apply BitVec.eq_of_toNat_eq
  rw [wordXK_toNat x f.isLt nn.isLt]
  simp only [formatXK, BitVec.toNat_append]
  rw [← Nat.shiftLeft_add_eq_or_of_lt (regNibble x).isLt, ← Nat.shiftLeft_add_eq_or_of_lt nn.isLt,
    Nat.shiftLeft_eq, Nat.shiftLeft_eq, regNibble_toNat]
  omega

theorem formatXY_eq (f : Nibble) (x y : Reg) (s : Nibble) :
    formatXY f x y s = word4 f.toNat x y s.toNat := by
  apply BitVec.eq_of_toNat_eq
  rw [word4_toNat x y f.isLt s.isLt]
  simp only [formatXY, BitVec.toNat_append]
  rw [← Nat.shiftLeft_add_eq_or_of_lt (regNibble x).isLt, ← Nat.shiftLeft_add_eq_or_of_lt (regNibble y).isLt,
    ← Nat.shiftLeft_add_eq_or_of_lt s.isLt, Nat.shiftLeft_eq, Nat.shiftLeft_eq, Nat.shiftLeft_eq,
    regNibble_toNat, regNibble_toNat]
  omega

theorem familyOf_formatA (f : Nibble) (nnn : Addr) : familyOf (formatA f nnn) = f := by
  apply BitVec.eq_of_toNat_eq
  rw [familyOf_toNat, formatA_eq, wordA_toNat f.isLt nnn.isLt]
  omega

theorem familyOf_formatXK (f : Nibble) (x : Reg) (nn : Byte) : familyOf (formatXK f x nn) = f := by
  apply BitVec.eq_of_toNat_eq
  rw [familyOf_toNat, formatXK_eq, wordXK_toNat x f.isLt nn.isLt]
  omega

theorem familyOf_formatXY (f : Nibble) (x y : Reg) (s : Nibble) : familyOf (formatXY f x y s) = f := by
  apply BitVec.eq_of_toNat_eq
  rw [familyOf_toNat, formatXY_eq, word4_toNat x y f.isLt s.isLt]
  omega

end Sys2Proof.Machine
end

