-- ==== Sys2Proof/Laws/State.lean ====
section
/-! SUPPORT. One lemma per field and update of the state: what each update writes, and that it writes nothing else. -/

namespace Sys2Proof.Machine

/-! ### setReg -/

@[simp] theorem State.setReg_mem (s : State) (x : Reg) (b : Byte) : (s.setReg x b).mem = s.mem := rfl
@[simp] theorem State.setReg_v (s : State) (x : Reg) (b : Byte) : (s.setReg x b).v = s.v.set x b := rfl
@[simp] theorem State.setReg_i (s : State) (x : Reg) (b : Byte) : (s.setReg x b).i = s.i := rfl
@[simp] theorem State.setReg_pc (s : State) (x : Reg) (b : Byte) : (s.setReg x b).pc = s.pc := rfl
@[simp] theorem State.setReg_sp (s : State) (x : Reg) (b : Byte) : (s.setReg x b).sp = s.sp := rfl
@[simp] theorem State.setReg_stack (s : State) (x : Reg) (b : Byte) : (s.setReg x b).stack = s.stack := rfl
@[simp] theorem State.setReg_dt (s : State) (x : Reg) (b : Byte) : (s.setReg x b).dt = s.dt := rfl
@[simp] theorem State.setReg_st (s : State) (x : Reg) (b : Byte) : (s.setReg x b).st = s.st := rfl
@[simp] theorem State.setReg_key (s : State) (x : Reg) (b : Byte) : (s.setReg x b).key = s.key := rfl
@[simp] theorem State.setReg_disp (s : State) (x : Reg) (b : Byte) : (s.setReg x b).disp = s.disp := rfl
@[simp] theorem State.setReg_draw (s : State) (x : Reg) (b : Byte) : (s.setReg x b).draw = s.draw := rfl
@[simp] theorem State.setReg_fault (s : State) (x : Reg) (b : Byte) : (s.setReg x b).fault = s.fault := rfl
@[simp] theorem State.setReg_beep (s : State) (x : Reg) (b : Byte) : (s.setReg x b).beep = s.beep := rfl
@[simp] theorem State.setReg_rndIn (s : State) (x : Reg) (b : Byte) : (s.setReg x b).rndIn = s.rndIn := rfl
@[simp] theorem State.setReg_draws (s : State) (x : Reg) (b : Byte) : (s.setReg x b).draws = s.draws := rfl
@[simp] theorem State.setReg_cfg (s : State) (x : Reg) (b : Byte) : (s.setReg x b).cfg = s.cfg := rfl

/-! ### setI -/

@[simp] theorem State.setI_mem (s : State) (w : Word) : (s.setI w).mem = s.mem := rfl
@[simp] theorem State.setI_v (s : State) (w : Word) : (s.setI w).v = s.v := rfl
@[simp] theorem State.setI_i (s : State) (w : Word) : (s.setI w).i = w := rfl
@[simp] theorem State.setI_pc (s : State) (w : Word) : (s.setI w).pc = s.pc := rfl
@[simp] theorem State.setI_sp (s : State) (w : Word) : (s.setI w).sp = s.sp := rfl
@[simp] theorem State.setI_stack (s : State) (w : Word) : (s.setI w).stack = s.stack := rfl
@[simp] theorem State.setI_dt (s : State) (w : Word) : (s.setI w).dt = s.dt := rfl
@[simp] theorem State.setI_st (s : State) (w : Word) : (s.setI w).st = s.st := rfl
@[simp] theorem State.setI_key (s : State) (w : Word) : (s.setI w).key = s.key := rfl
@[simp] theorem State.setI_disp (s : State) (w : Word) : (s.setI w).disp = s.disp := rfl
@[simp] theorem State.setI_draw (s : State) (w : Word) : (s.setI w).draw = s.draw := rfl
@[simp] theorem State.setI_fault (s : State) (w : Word) : (s.setI w).fault = s.fault := rfl
@[simp] theorem State.setI_beep (s : State) (w : Word) : (s.setI w).beep = s.beep := rfl
@[simp] theorem State.setI_rndIn (s : State) (w : Word) : (s.setI w).rndIn = s.rndIn := rfl
@[simp] theorem State.setI_draws (s : State) (w : Word) : (s.setI w).draws = s.draws := rfl
@[simp] theorem State.setI_cfg (s : State) (w : Word) : (s.setI w).cfg = s.cfg := rfl

/-! ### setPc -/

@[simp] theorem State.setPc_mem (s : State) (w : Word) : (s.setPc w).mem = s.mem := rfl
@[simp] theorem State.setPc_v (s : State) (w : Word) : (s.setPc w).v = s.v := rfl
@[simp] theorem State.setPc_i (s : State) (w : Word) : (s.setPc w).i = s.i := rfl
@[simp] theorem State.setPc_pc (s : State) (w : Word) : (s.setPc w).pc = w := rfl
@[simp] theorem State.setPc_sp (s : State) (w : Word) : (s.setPc w).sp = s.sp := rfl
@[simp] theorem State.setPc_stack (s : State) (w : Word) : (s.setPc w).stack = s.stack := rfl
@[simp] theorem State.setPc_dt (s : State) (w : Word) : (s.setPc w).dt = s.dt := rfl
@[simp] theorem State.setPc_st (s : State) (w : Word) : (s.setPc w).st = s.st := rfl
@[simp] theorem State.setPc_key (s : State) (w : Word) : (s.setPc w).key = s.key := rfl
@[simp] theorem State.setPc_disp (s : State) (w : Word) : (s.setPc w).disp = s.disp := rfl
@[simp] theorem State.setPc_draw (s : State) (w : Word) : (s.setPc w).draw = s.draw := rfl
@[simp] theorem State.setPc_fault (s : State) (w : Word) : (s.setPc w).fault = s.fault := rfl
@[simp] theorem State.setPc_beep (s : State) (w : Word) : (s.setPc w).beep = s.beep := rfl
@[simp] theorem State.setPc_rndIn (s : State) (w : Word) : (s.setPc w).rndIn = s.rndIn := rfl
@[simp] theorem State.setPc_draws (s : State) (w : Word) : (s.setPc w).draws = s.draws := rfl
@[simp] theorem State.setPc_cfg (s : State) (w : Word) : (s.setPc w).cfg = s.cfg := rfl

/-! ### setDt -/

@[simp] theorem State.setDt_mem (s : State) (b : Byte) : (s.setDt b).mem = s.mem := rfl
@[simp] theorem State.setDt_v (s : State) (b : Byte) : (s.setDt b).v = s.v := rfl
@[simp] theorem State.setDt_i (s : State) (b : Byte) : (s.setDt b).i = s.i := rfl
@[simp] theorem State.setDt_pc (s : State) (b : Byte) : (s.setDt b).pc = s.pc := rfl
@[simp] theorem State.setDt_sp (s : State) (b : Byte) : (s.setDt b).sp = s.sp := rfl
@[simp] theorem State.setDt_stack (s : State) (b : Byte) : (s.setDt b).stack = s.stack := rfl
@[simp] theorem State.setDt_dt (s : State) (b : Byte) : (s.setDt b).dt = b := rfl
@[simp] theorem State.setDt_st (s : State) (b : Byte) : (s.setDt b).st = s.st := rfl
@[simp] theorem State.setDt_key (s : State) (b : Byte) : (s.setDt b).key = s.key := rfl
@[simp] theorem State.setDt_disp (s : State) (b : Byte) : (s.setDt b).disp = s.disp := rfl
@[simp] theorem State.setDt_draw (s : State) (b : Byte) : (s.setDt b).draw = s.draw := rfl
@[simp] theorem State.setDt_fault (s : State) (b : Byte) : (s.setDt b).fault = s.fault := rfl
@[simp] theorem State.setDt_beep (s : State) (b : Byte) : (s.setDt b).beep = s.beep := rfl
@[simp] theorem State.setDt_rndIn (s : State) (b : Byte) : (s.setDt b).rndIn = s.rndIn := rfl
@[simp] theorem State.setDt_draws (s : State) (b : Byte) : (s.setDt b).draws = s.draws := rfl
@[simp] theorem State.setDt_cfg (s : State) (b : Byte) : (s.setDt b).cfg = s.cfg := rfl

/-! ### setSt -/

@[simp] theorem State.setSt_mem (s : State) (b : Byte) : (s.setSt b).mem = s.mem := rfl
@[simp] theorem State.setSt_v (s : State) (b : Byte) : (s.setSt b).v = s.v := rfl
@[simp] theorem State.setSt_i (s : State) (b : Byte) : (s.setSt b).i = s.i := rfl
@[simp] theorem State.setSt_pc (s : State) (b : Byte) : (s.setSt b).pc = s.pc := rfl
@[simp] theorem State.setSt_sp (s : State) (b : Byte) : (s.setSt b).sp = s.sp := rfl
@[simp] theorem State.setSt_stack (s : State) (b : Byte) : (s.setSt b).stack = s.stack := rfl
@[simp] theorem State.setSt_dt (s : State) (b : Byte) : (s.setSt b).dt = s.dt := rfl
@[simp] theorem State.setSt_st (s : State) (b : Byte) : (s.setSt b).st = b := rfl
@[simp] theorem State.setSt_key (s : State) (b : Byte) : (s.setSt b).key = s.key := rfl
@[simp] theorem State.setSt_disp (s : State) (b : Byte) : (s.setSt b).disp = s.disp := rfl
@[simp] theorem State.setSt_draw (s : State) (b : Byte) : (s.setSt b).draw = s.draw := rfl
@[simp] theorem State.setSt_fault (s : State) (b : Byte) : (s.setSt b).fault = s.fault := rfl
@[simp] theorem State.setSt_beep (s : State) (b : Byte) : (s.setSt b).beep = s.beep := rfl
@[simp] theorem State.setSt_rndIn (s : State) (b : Byte) : (s.setSt b).rndIn = s.rndIn := rfl
@[simp] theorem State.setSt_draws (s : State) (b : Byte) : (s.setSt b).draws = s.draws := rfl
@[simp] theorem State.setSt_cfg (s : State) (b : Byte) : (s.setSt b).cfg = s.cfg := rfl

/-! ### setDraw -/

@[simp] theorem State.setDraw_mem (s : State) (b : Bool) : (s.setDraw b).mem = s.mem := rfl
@[simp] theorem State.setDraw_v (s : State) (b : Bool) : (s.setDraw b).v = s.v := rfl
@[simp] theorem State.setDraw_i (s : State) (b : Bool) : (s.setDraw b).i = s.i := rfl
@[simp] theorem State.setDraw_pc (s : State) (b : Bool) : (s.setDraw b).pc = s.pc := rfl
@[simp] theorem State.setDraw_sp (s : State) (b : Bool) : (s.setDraw b).sp = s.sp := rfl
@[simp] theorem State.setDraw_stack (s : State) (b : Bool) : (s.setDraw b).stack = s.stack := rfl
@[simp] theorem State.setDraw_dt (s : State) (b : Bool) : (s.setDraw b).dt = s.dt := rfl
@[simp] theorem State.setDraw_st (s : State) (b : Bool) : (s.setDraw b).st = s.st := rfl
@[simp] theorem State.setDraw_key (s : State) (b : Bool) : (s.setDraw b).key = s.key := rfl
@[simp] theorem State.setDraw_disp (s : State) (b : Bool) : (s.setDraw b).disp = s.disp := rfl
@[simp] theorem State.setDraw_draw (s : State) (b : Bool) : (s.setDraw b).draw = b := rfl
@[simp] theorem State.setDraw_fault (s : State) (b : Bool) : (s.setDraw b).fault = s.fault := rfl
@[simp] theorem State.setDraw_beep (s : State) (b : Bool) : (s.setDraw b).beep = s.beep := rfl
@[simp] theorem State.setDraw_rndIn (s : State) (b : Bool) : (s.setDraw b).rndIn = s.rndIn := rfl
@[simp] theorem State.setDraw_draws (s : State) (b : Bool) : (s.setDraw b).draws = s.draws := rfl
@[simp] theorem State.setDraw_cfg (s : State) (b : Bool) : (s.setDraw b).cfg = s.cfg := rfl

/-! ### setBeep -/

@[simp] theorem State.setBeep_mem (s : State) (b : Bool) : (s.setBeep b).mem = s.mem := rfl
@[simp] theorem State.setBeep_v (s : State) (b : Bool) : (s.setBeep b).v = s.v := rfl
@[simp] theorem State.setBeep_i (s : State) (b : Bool) : (s.setBeep b).i = s.i := rfl
@[simp] theorem State.setBeep_pc (s : State) (b : Bool) : (s.setBeep b).pc = s.pc := rfl
@[simp] theorem State.setBeep_sp (s : State) (b : Bool) : (s.setBeep b).sp = s.sp := rfl
@[simp] theorem State.setBeep_stack (s : State) (b : Bool) : (s.setBeep b).stack = s.stack := rfl
@[simp] theorem State.setBeep_dt (s : State) (b : Bool) : (s.setBeep b).dt = s.dt := rfl
@[simp] theorem State.setBeep_st (s : State) (b : Bool) : (s.setBeep b).st = s.st := rfl
@[simp] theorem State.setBeep_key (s : State) (b : Bool) : (s.setBeep b).key = s.key := rfl
@[simp] theorem State.setBeep_disp (s : State) (b : Bool) : (s.setBeep b).disp = s.disp := rfl
@[simp] theorem State.setBeep_draw (s : State) (b : Bool) : (s.setBeep b).draw = s.draw := rfl
@[simp] theorem State.setBeep_fault (s : State) (b : Bool) : (s.setBeep b).fault = s.fault := rfl
@[simp] theorem State.setBeep_beep (s : State) (b : Bool) : (s.setBeep b).beep = b := rfl
@[simp] theorem State.setBeep_rndIn (s : State) (b : Bool) : (s.setBeep b).rndIn = s.rndIn := rfl
@[simp] theorem State.setBeep_draws (s : State) (b : Bool) : (s.setBeep b).draws = s.draws := rfl
@[simp] theorem State.setBeep_cfg (s : State) (b : Bool) : (s.setBeep b).cfg = s.cfg := rfl

/-! ### writeByte -/

@[simp] theorem State.writeByte_mem (s : State) (a : Nat) (b : Byte) : (s.writeByte a b).mem = Cells.write (unlisted s.cfg.font) s.mem a b := rfl
@[simp] theorem State.writeByte_v (s : State) (a : Nat) (b : Byte) : (s.writeByte a b).v = s.v := rfl
@[simp] theorem State.writeByte_i (s : State) (a : Nat) (b : Byte) : (s.writeByte a b).i = s.i := rfl
@[simp] theorem State.writeByte_pc (s : State) (a : Nat) (b : Byte) : (s.writeByte a b).pc = s.pc := rfl
@[simp] theorem State.writeByte_sp (s : State) (a : Nat) (b : Byte) : (s.writeByte a b).sp = s.sp := rfl
@[simp] theorem State.writeByte_stack (s : State) (a : Nat) (b : Byte) : (s.writeByte a b).stack = s.stack := rfl
@[simp] theorem State.writeByte_dt (s : State) (a : Nat) (b : Byte) : (s.writeByte a b).dt = s.dt := rfl
@[simp] theorem State.writeByte_st (s : State) (a : Nat) (b : Byte) : (s.writeByte a b).st = s.st := rfl
@[simp] theorem State.writeByte_key (s : State) (a : Nat) (b : Byte) : (s.writeByte a b).key = s.key := rfl
@[simp] theorem State.writeByte_disp (s : State) (a : Nat) (b : Byte) : (s.writeByte a b).disp = s.disp := rfl
@[simp] theorem State.writeByte_draw (s : State) (a : Nat) (b : Byte) : (s.writeByte a b).draw = s.draw := rfl
@[simp] theorem State.writeByte_fault (s : State) (a : Nat) (b : Byte) : (s.writeByte a b).fault = s.fault := rfl
@[simp] theorem State.writeByte_beep (s : State) (a : Nat) (b : Byte) : (s.writeByte a b).beep = s.beep := rfl
@[simp] theorem State.writeByte_rndIn (s : State) (a : Nat) (b : Byte) : (s.writeByte a b).rndIn = s.rndIn := rfl
@[simp] theorem State.writeByte_draws (s : State) (a : Nat) (b : Byte) : (s.writeByte a b).draws = s.draws := rfl
@[simp] theorem State.writeByte_cfg (s : State) (a : Nat) (b : Byte) : (s.writeByte a b).cfg = s.cfg := rfl

/-! ### setPixel -/

@[simp] theorem State.setPixel_mem (s : State) (k : Nat) (b : Byte) : (s.setPixel k b).mem = s.mem := rfl
@[simp] theorem State.setPixel_v (s : State) (k : Nat) (b : Byte) : (s.setPixel k b).v = s.v := rfl
@[simp] theorem State.setPixel_i (s : State) (k : Nat) (b : Byte) : (s.setPixel k b).i = s.i := rfl
@[simp] theorem State.setPixel_pc (s : State) (k : Nat) (b : Byte) : (s.setPixel k b).pc = s.pc := rfl
@[simp] theorem State.setPixel_sp (s : State) (k : Nat) (b : Byte) : (s.setPixel k b).sp = s.sp := rfl
@[simp] theorem State.setPixel_stack (s : State) (k : Nat) (b : Byte) : (s.setPixel k b).stack = s.stack := rfl
@[simp] theorem State.setPixel_dt (s : State) (k : Nat) (b : Byte) : (s.setPixel k b).dt = s.dt := rfl
@[simp] theorem State.setPixel_st (s : State) (k : Nat) (b : Byte) : (s.setPixel k b).st = s.st := rfl
@[simp] theorem State.setPixel_key (s : State) (k : Nat) (b : Byte) : (s.setPixel k b).key = s.key := rfl
@[simp] theorem State.setPixel_disp (s : State) (k : Nat) (b : Byte) : (s.setPixel k b).disp = Cells.write (fun _ => 0x00) s.disp k b := rfl
@[simp] theorem State.setPixel_draw (s : State) (k : Nat) (b : Byte) : (s.setPixel k b).draw = s.draw := rfl
@[simp] theorem State.setPixel_fault (s : State) (k : Nat) (b : Byte) : (s.setPixel k b).fault = s.fault := rfl
@[simp] theorem State.setPixel_beep (s : State) (k : Nat) (b : Byte) : (s.setPixel k b).beep = s.beep := rfl
@[simp] theorem State.setPixel_rndIn (s : State) (k : Nat) (b : Byte) : (s.setPixel k b).rndIn = s.rndIn := rfl
@[simp] theorem State.setPixel_draws (s : State) (k : Nat) (b : Byte) : (s.setPixel k b).draws = s.draws := rfl
@[simp] theorem State.setPixel_cfg (s : State) (k : Nat) (b : Byte) : (s.setPixel k b).cfg = s.cfg := rfl

/-! ### clearDisplay -/

@[simp] theorem State.clearDisplay_mem (s : State) : (s.clearDisplay).mem = s.mem := rfl
@[simp] theorem State.clearDisplay_v (s : State) : (s.clearDisplay).v = s.v := rfl
@[simp] theorem State.clearDisplay_i (s : State) : (s.clearDisplay).i = s.i := rfl
@[simp] theorem State.clearDisplay_pc (s : State) : (s.clearDisplay).pc = s.pc := rfl
@[simp] theorem State.clearDisplay_sp (s : State) : (s.clearDisplay).sp = s.sp := rfl
@[simp] theorem State.clearDisplay_stack (s : State) : (s.clearDisplay).stack = s.stack := rfl
@[simp] theorem State.clearDisplay_dt (s : State) : (s.clearDisplay).dt = s.dt := rfl
@[simp] theorem State.clearDisplay_st (s : State) : (s.clearDisplay).st = s.st := rfl
@[simp] theorem State.clearDisplay_key (s : State) : (s.clearDisplay).key = s.key := rfl
@[simp] theorem State.clearDisplay_disp (s : State) : (s.clearDisplay).disp = [] := rfl
@[simp] theorem State.clearDisplay_draw (s : State) : (s.clearDisplay).draw = s.draw := rfl
@[simp] theorem State.clearDisplay_fault (s : State) : (s.clearDisplay).fault = s.fault := rfl
@[simp] theorem State.clearDisplay_beep (s : State) : (s.clearDisplay).beep = s.beep := rfl
@[simp] theorem State.clearDisplay_rndIn (s : State) : (s.clearDisplay).rndIn = s.rndIn := rfl
@[simp] theorem State.clearDisplay_draws (s : State) : (s.clearDisplay).draws = s.draws := rfl
@[simp] theorem State.clearDisplay_cfg (s : State) : (s.clearDisplay).cfg = s.cfg := rfl

/-! ### takeFault -/

@[simp] theorem State.takeFault_mem (s : State) (k : Fault) : (s.takeFault k).mem = s.mem := rfl
@[simp] theorem State.takeFault_v (s : State) (k : Fault) : (s.takeFault k).v = s.v := rfl
@[simp] theorem State.takeFault_i (s : State) (k : Fault) : (s.takeFault k).i = s.i := rfl
@[simp] theorem State.takeFault_pc (s : State) (k : Fault) : (s.takeFault k).pc = s.pc := rfl
@[simp] theorem State.takeFault_sp (s : State) (k : Fault) : (s.takeFault k).sp = s.sp := rfl
@[simp] theorem State.takeFault_stack (s : State) (k : Fault) : (s.takeFault k).stack = s.stack := rfl
@[simp] theorem State.takeFault_dt (s : State) (k : Fault) : (s.takeFault k).dt = s.dt := rfl
@[simp] theorem State.takeFault_st (s : State) (k : Fault) : (s.takeFault k).st = s.st := rfl
@[simp] theorem State.takeFault_key (s : State) (k : Fault) : (s.takeFault k).key = s.key := rfl
@[simp] theorem State.takeFault_disp (s : State) (k : Fault) : (s.takeFault k).disp = s.disp := rfl
@[simp] theorem State.takeFault_draw (s : State) (k : Fault) : (s.takeFault k).draw = s.draw := rfl
@[simp] theorem State.takeFault_fault (s : State) (k : Fault) : (s.takeFault k).fault = some k := rfl
@[simp] theorem State.takeFault_beep (s : State) (k : Fault) : (s.takeFault k).beep = false := rfl
@[simp] theorem State.takeFault_rndIn (s : State) (k : Fault) : (s.takeFault k).rndIn = s.rndIn := rfl
@[simp] theorem State.takeFault_draws (s : State) (k : Fault) : (s.takeFault k).draws = s.draws := rfl
@[simp] theorem State.takeFault_cfg (s : State) (k : Fault) : (s.takeFault k).cfg = s.cfg := rfl

/-! ### takeInput -/

@[simp] theorem State.takeInput_mem (s : State) : (s.takeInput).mem = s.mem := rfl
@[simp] theorem State.takeInput_v (s : State) : (s.takeInput).v = s.v := rfl
@[simp] theorem State.takeInput_i (s : State) : (s.takeInput).i = s.i := rfl
@[simp] theorem State.takeInput_pc (s : State) : (s.takeInput).pc = s.pc := rfl
@[simp] theorem State.takeInput_sp (s : State) : (s.takeInput).sp = s.sp := rfl
@[simp] theorem State.takeInput_stack (s : State) : (s.takeInput).stack = s.stack := rfl
@[simp] theorem State.takeInput_dt (s : State) : (s.takeInput).dt = s.dt := rfl
@[simp] theorem State.takeInput_st (s : State) : (s.takeInput).st = s.st := rfl
@[simp] theorem State.takeInput_key (s : State) : (s.takeInput).key = s.key := rfl
@[simp] theorem State.takeInput_disp (s : State) : (s.takeInput).disp = s.disp := rfl
@[simp] theorem State.takeInput_draw (s : State) : (s.takeInput).draw = s.draw := rfl
@[simp] theorem State.takeInput_fault (s : State) : (s.takeInput).fault = s.fault := rfl
@[simp] theorem State.takeInput_beep (s : State) : (s.takeInput).beep = s.beep := rfl
@[simp] theorem State.takeInput_rndIn (s : State) : (s.takeInput).rndIn = s.rndIn.tail := rfl
@[simp] theorem State.takeInput_draws (s : State) : (s.takeInput).draws = s.draws + 1 := rfl
@[simp] theorem State.takeInput_cfg (s : State) : (s.takeInput).cfg = s.cfg := rfl

/-! ### timerPhase -/

@[simp] theorem State.timerPhase_mem (s : State) : (s.timerPhase).mem = s.mem := rfl
@[simp] theorem State.timerPhase_v (s : State) : (s.timerPhase).v = s.v := rfl
@[simp] theorem State.timerPhase_i (s : State) : (s.timerPhase).i = s.i := rfl
@[simp] theorem State.timerPhase_pc (s : State) : (s.timerPhase).pc = s.pc := rfl
@[simp] theorem State.timerPhase_sp (s : State) : (s.timerPhase).sp = s.sp := rfl
@[simp] theorem State.timerPhase_stack (s : State) : (s.timerPhase).stack = s.stack := rfl
@[simp] theorem State.timerPhase_dt (s : State) : (s.timerPhase).dt = countDown s.dt := rfl
@[simp] theorem State.timerPhase_st (s : State) : (s.timerPhase).st = countDown s.st := rfl
@[simp] theorem State.timerPhase_key (s : State) : (s.timerPhase).key = s.key := rfl
@[simp] theorem State.timerPhase_disp (s : State) : (s.timerPhase).disp = s.disp := rfl
@[simp] theorem State.timerPhase_draw (s : State) : (s.timerPhase).draw = s.draw := rfl
@[simp] theorem State.timerPhase_fault (s : State) : (s.timerPhase).fault = s.fault := rfl
@[simp] theorem State.timerPhase_beep (s : State) : (s.timerPhase).beep = (s.st == 1) := rfl
@[simp] theorem State.timerPhase_rndIn (s : State) : (s.timerPhase).rndIn = s.rndIn := rfl
@[simp] theorem State.timerPhase_draws (s : State) : (s.timerPhase).draws = s.draws := rfl
@[simp] theorem State.timerPhase_cfg (s : State) : (s.timerPhase).cfg = s.cfg := rfl

/-! ### advance -/

@[simp] theorem State.advance_mem (s : State) : (s.advance).mem = s.mem := rfl
@[simp] theorem State.advance_v (s : State) : (s.advance).v = s.v := rfl
@[simp] theorem State.advance_i (s : State) : (s.advance).i = s.i := rfl
@[simp] theorem State.advance_pc (s : State) : (s.advance).pc = s.pc + 2 := rfl
@[simp] theorem State.advance_sp (s : State) : (s.advance).sp = s.sp := rfl
@[simp] theorem State.advance_stack (s : State) : (s.advance).stack = s.stack := rfl
@[simp] theorem State.advance_dt (s : State) : (s.advance).dt = s.dt := rfl
@[simp] theorem State.advance_st (s : State) : (s.advance).st = s.st := rfl
@[simp] theorem State.advance_key (s : State) : (s.advance).key = s.key := rfl
@[simp] theorem State.advance_disp (s : State) : (s.advance).disp = s.disp := rfl
@[simp] theorem State.advance_draw (s : State) : (s.advance).draw = s.draw := rfl
@[simp] theorem State.advance_fault (s : State) : (s.advance).fault = s.fault := rfl
@[simp] theorem State.advance_beep (s : State) : (s.advance).beep = s.beep := rfl
@[simp] theorem State.advance_rndIn (s : State) : (s.advance).rndIn = s.rndIn := rfl
@[simp] theorem State.advance_draws (s : State) : (s.advance).draws = s.draws := rfl
@[simp] theorem State.advance_cfg (s : State) : (s.advance).cfg = s.cfg := rfl

/-! ### skip -/

@[simp] theorem State.skip_mem (s : State) : (s.skip).mem = s.mem := rfl
@[simp] theorem State.skip_v (s : State) : (s.skip).v = s.v := rfl
@[simp] theorem State.skip_i (s : State) : (s.skip).i = s.i := rfl
@[simp] theorem State.skip_pc (s : State) : (s.skip).pc = s.pc + 2 := rfl
@[simp] theorem State.skip_sp (s : State) : (s.skip).sp = s.sp := rfl
@[simp] theorem State.skip_stack (s : State) : (s.skip).stack = s.stack := rfl
@[simp] theorem State.skip_dt (s : State) : (s.skip).dt = s.dt := rfl
@[simp] theorem State.skip_st (s : State) : (s.skip).st = s.st := rfl
@[simp] theorem State.skip_key (s : State) : (s.skip).key = s.key := rfl
@[simp] theorem State.skip_disp (s : State) : (s.skip).disp = s.disp := rfl
@[simp] theorem State.skip_draw (s : State) : (s.skip).draw = s.draw := rfl
@[simp] theorem State.skip_fault (s : State) : (s.skip).fault = s.fault := rfl
@[simp] theorem State.skip_beep (s : State) : (s.skip).beep = s.beep := rfl
@[simp] theorem State.skip_rndIn (s : State) : (s.skip).rndIn = s.rndIn := rfl
@[simp] theorem State.skip_draws (s : State) : (s.skip).draws = s.draws := rfl
@[simp] theorem State.skip_cfg (s : State) : (s.skip).cfg = s.cfg := rfl

/-! ### rewind -/

@[simp] theorem State.rewind_mem (s : State) : (s.rewind).mem = s.mem := rfl
@[simp] theorem State.rewind_v (s : State) : (s.rewind).v = s.v := rfl
@[simp] theorem State.rewind_i (s : State) : (s.rewind).i = s.i := rfl
@[simp] theorem State.rewind_pc (s : State) : (s.rewind).pc = s.pc - 2 := rfl
@[simp] theorem State.rewind_sp (s : State) : (s.rewind).sp = s.sp := rfl
@[simp] theorem State.rewind_stack (s : State) : (s.rewind).stack = s.stack := rfl
@[simp] theorem State.rewind_dt (s : State) : (s.rewind).dt = s.dt := rfl
@[simp] theorem State.rewind_st (s : State) : (s.rewind).st = s.st := rfl
@[simp] theorem State.rewind_key (s : State) : (s.rewind).key = s.key := rfl
@[simp] theorem State.rewind_disp (s : State) : (s.rewind).disp = s.disp := rfl
@[simp] theorem State.rewind_draw (s : State) : (s.rewind).draw = s.draw := rfl
@[simp] theorem State.rewind_fault (s : State) : (s.rewind).fault = s.fault := rfl
@[simp] theorem State.rewind_beep (s : State) : (s.rewind).beep = s.beep := rfl
@[simp] theorem State.rewind_rndIn (s : State) : (s.rewind).rndIn = s.rndIn := rfl
@[simp] theorem State.rewind_draws (s : State) : (s.rewind).draws = s.draws := rfl
@[simp] theorem State.rewind_cfg (s : State) : (s.rewind).cfg = s.cfg := rfl

end Sys2Proof.Machine
end

