-- ==== Sys2Proof/Laws/Ops.lean ====
section
/-! SUPPORT. What each shared operation does, said once: reads after writes, the execute phase and its fault entry, range
checks, the stack, the key operand, block transfers. -/

namespace Sys2Proof.Machine

/-! ## Reads after writes -/

theorem State.reg_setReg (s : State) (x k : Reg) (b : Byte) :
    (s.setReg x b).reg k = if k = x then b else s.reg k := by
  simp only [State.reg, State.setReg_v, Fin.getElem_fin, Vector.getElem_set]
  by_cases h : k = x
  · simp [h]
  · have : x.val ≠ k.val := fun e => h (Fin.ext e.symm)
    simp [h, this]

@[simp] theorem State.reg_setReg_same (s : State) (x : Reg) (b : Byte) : (s.setReg x b).reg x = b := by
  simp [State.reg_setReg]

theorem State.readByte_writeByte (s : State) (a a' : Nat) (b : Byte) :
    (s.writeByte a b).readByte a' = if a' = a then b else s.readByte a' := by
  simp [State.readByte, Cells.read_write]

theorem State.pixel_setPixel (s : State) (k k' : Nat) (b : Byte) :
    (s.setPixel k b).pixel k' = if k' = k then b else s.pixel k' := by
  simp [State.pixel, Cells.read_write]

@[simp] theorem State.pixel_clearDisplay (s : State) (k : Nat) : s.clearDisplay.pixel k = 0 := rfl

/-- Two states with the same registers read the same registers. -/
theorem State.reg_congr {s t : State} (h : t.v = s.v) (k : Reg) : t.reg k = s.reg k := by
  simp [State.reg, h]

/-- Two states with the same memory and FONT read the same bytes. -/
theorem State.readByte_congr {s t : State} (h : t.mem = s.mem) (hc : t.cfg = s.cfg) (a : Nat) :
    t.readByte a = s.readByte a := by
  simp [State.readByte, h, hc]

/-- Two states with the same display read the same pixels. -/
theorem State.pixel_congr {s t : State} (h : t.disp = s.disp) (k : Nat) : t.pixel k = s.pixel k := by
  simp [State.pixel, h]

/-! ## The execute phase -/

/-- An execute phase ends in a next state: what the body left, or the state before it with the fault taken (R252). -/
theorem executing_eq (s : State) (body : State → Except Fault State) :
    executing s body = .next (match body s.advance with | .ok t => t | .error k => s.takeFault k) := by
  unfold executing; cases body s.advance <;> rfl

/-- Inversion: what an execute phase can do. -/
theorem executing_cases {s t : State} {body : State → Except Fault State}
    (h : executing s body = .next t) :
    body s.advance = .ok t ∨ ∃ k, body s.advance = .error k ∧ t = s.takeFault k := by
  unfold executing at h
  split at h
  · next u hu => cases h; exact .inl hu
  · next k hk => cases h; exact .inr ⟨k, hk, rfl⟩

theorem executing_ok {s t : State} {body : State → Except Fault State} (h : body s.advance = .ok t) :
    executing s body = .next t := by simp [executing, h]

theorem executing_error {s : State} {k : Fault} {body : State → Except Fault State}
    (h : body s.advance = .error k) : executing s body = .next (s.takeFault k) := by
  simp [executing, h]

/-! ## Operands -/

/-- The range check passes its state on, or faults (R64). -/
theorem State.checkRange_cases (s : State) (kMax : Nat) (t : State) :
    (s.i.toNat + kMax ≤ 0xFFF ∧ s.checkRange kMax t = .ok t) ∨
    (s.i.toNat + kMax > 0xFFF ∧ s.checkRange kMax t = .error .memoryOutOfRange) := by
  unfold State.checkRange State.effAddr
  split
  · exact .inr ⟨by assumption, rfl⟩
  · exact .inl ⟨by omega, rfl⟩

/-- The key operand: the key's level, or a fault above 0xF (R210, R211). -/
theorem State.keyOperand_cases (s : State) (x : Reg) :
    (∃ h : (s.reg x).toNat < 16, s.keyOperand x = .ok s.key[(s.reg x).toNat]) ∨
    (16 ≤ (s.reg x).toNat ∧ s.keyOperand x = .error .keyIndexOutOfRange) := by
  unfold State.keyOperand
  split
  · next h => exact .inl ⟨h, rfl⟩
  · exact .inr ⟨by omega, rfl⟩

/-- The lowest pressed key is pressed, and no lower one is (R213). -/
theorem State.firstKey_some {s : State} {k : Reg} (h : s.firstKey = some k) :
    s.key[k] = true ∧ ∀ j < k, s.key[j] = false := by
  unfold State.firstKey at h
  rw [List.find?_eq_some_iff_getElem] at h
  obtain ⟨hk, n, hn, he, hlt⟩ := h
  refine ⟨hk, fun j hj => ?_⟩
  have hkn : k.val = n := by rw [← he]; simp
  have := hlt j.val (hkn ▸ Fin.lt_def.mp hj)
  simpa using this

/-- No key is pressed where there is no lowest one (R213). -/
theorem State.firstKey_none {s : State} (h : s.firstKey = none) (k : Reg) : s.key[k] = false := by
  unfold State.firstKey at h
  simpa using List.find?_eq_none.mp h k (List.mem_finRange k)

/-! ## The stack -/

/-- What CALL's push does: fault at SP = 16, else the entry at SP is PC and SP is one more (R112). -/
theorem State.pushPc_cases (s : State) :
    (s.sp.val = 16 ∧ s.pushPc = .error .stackOverflow) ∨
    (∃ h : s.sp.val < 16, s.pushPc =
      .ok { s with stack := s.stack.set s.sp.val s.pc h, sp := ⟨s.sp.val + 1, by omega⟩ }) := by
  unfold State.pushPc
  split
  · exact .inr ⟨by assumption, rfl⟩
  · exact .inl ⟨by omega, rfl⟩

/-- What RET's pop does: fault at SP = 0, else SP is one less and PC is the entry there (R111). -/
theorem State.popPc_cases (s : State) :
    (s.sp.val = 0 ∧ s.popPc = .error .stackUnderflow) ∨
    (∃ _h : s.sp.val ≠ 0, s.popPc =
      .ok { s with sp := ⟨s.sp.val - 1, by omega⟩, pc := s.stack[s.sp.val - 1]'(by omega) }) := by
  unfold State.popPc
  split
  · next h => exact .inl ⟨h, rfl⟩
  · next h => exact .inr ⟨h, rfl⟩

/-! ## Block transfers -/

/-- A block write changes memory only: every other field is kept. -/
theorem State.writeBytes_frame (s : State) (a : Nat) (bs : List Byte) :
    s.writeBytes a bs = { s with mem := (s.writeBytes a bs).mem } := by
  induction bs generalizing s a with
  | nil => rfl
  | cons b bs ih => rw [State.writeBytes, ih]; rfl

/-- A block write puts its bytes at `a`, `a + 1`, ... and leaves every other byte (R67). -/
theorem State.readByte_writeBytes (s : State) (a a' : Nat) (bs : List Byte) :
    (s.writeBytes a bs).readByte a' =
      if h : a ≤ a' ∧ a' < a + bs.length then bs[a' - a] else s.readByte a' := by
  induction bs generalizing s a with
  | nil => simp [State.writeBytes]
  | cons b bs ih =>
    rw [State.writeBytes, ih, State.readByte_writeByte]
    by_cases h : a' = a
    · subst h; simp
    · by_cases h2 : a + 1 ≤ a' ∧ a' < a + 1 + bs.length
      · have h3 : a ≤ a' ∧ a' < a + (b :: bs).length := by simp; omega
        have h4 : a' - a = (a' - (a + 1)) + 1 := by omega
        rw [dif_pos h2, dif_pos h3]
        simp [h4]
      · have h3 : ¬ (a ≤ a' ∧ a' < a + (b :: bs).length) := by simp; omega
        rw [dif_neg h2, dif_neg h3, if_neg h]

/-- A block write inside memory keeps its canonical form. -/
theorem State.writeBytes_memWf {s : State} {a : Nat} {bs : List Byte} (ha : a + bs.length ≤ 4096)
    (hs : Memory.wf s.cfg.font s.mem = true) :
    Memory.wf (s.writeBytes a bs).cfg.font (s.writeBytes a bs).mem = true := by
  induction bs generalizing s a with
  | nil => exact hs
  | cons b bs ih =>
    simp only [List.length_cons] at ha
    exact ih (by omega) (Cells.wf_write (by omega) hs)

/-- A byte write inside memory keeps its canonical form (R60). -/
theorem State.writeByte_memWf {s : State} {a : Nat} (b : Byte) (ha : a < 4096)
    (hs : Memory.wf s.cfg.font s.mem = true) :
    Memory.wf (s.writeByte a b).cfg.font (s.writeByte a b).mem = true :=
  Cells.wf_write ha hs

/-- A pixel write inside the display keeps its canonical form (R32). -/
theorem State.setPixel_dispWf {s : State} {k : Nat} (b : Byte) (hk : k < 2048)
    (hs : Display.wf s.disp = true) : Display.wf (s.setPixel k b).disp = true :=
  Cells.wf_write hk hs

/-- Memory after Reset is canonical (R48). -/
theorem State.reset_memWf : Memory.wf State.reset.cfg.font State.reset.mem = true := rfl

/-- Loading registers writes registers only: every other field is kept. -/
theorem State.fillRegs_frame (s : State) (n : Nat) :
    s.fillRegs n = { s with v := (s.fillRegs n).v } := by
  induction n with
  | zero => rfl
  | succ n ih =>
    simp only [State.fillRegs, List.range_succ, List.foldl_append, List.foldl_cons, List.foldl_nil]
      at ih ⊢
    rw [ih]; rfl

/-- Loading `n` registers gives V[k] the byte at I + k for every k below n, and leaves the others (R175). -/
theorem State.reg_fillRegs (s : State) (n : Nat) (hn : n ≤ 16) (k : Reg) :
    (s.fillRegs n).reg k = if k.val < n then s.readByte (s.i.toNat + k.val) else s.reg k := by
  induction n with
  | zero => simp [State.fillRegs]
  | succ n ih =>
    have hf := State.fillRegs_frame s n
    have ih := ih (by omega)
    simp only [State.fillRegs, List.range_succ, List.foldl_append, List.foldl_cons, List.foldl_nil]
      at ih hf ⊢
    generalize (List.range n).foldl _ s = t at ih hf ⊢
    have hb : t.readByte (t.effAddr n) = s.readByte (s.i.toNat + n) := by
      rw [hf]; rfl
    rw [State.reg_setReg, hb, ih]
    have hv : (Fin.ofNat 16 n).val = n := Nat.mod_eq_of_lt (by omega)
    by_cases h : k = Fin.ofNat 16 n
    · have : k.val = n := by rw [h]; exact hv
      rw [if_pos h, if_pos (by omega), this]
    · have : k.val ≠ n := fun e => h (Fin.ext (by rw [e, hv]))
      rw [if_neg h]
      by_cases h2 : k.val < n
      · rw [if_pos h2, if_pos (by omega)]
      · rw [if_neg h2, if_neg (by omega)]

/-! ## The flag instructions -/

/-- V[k] after the two statements of a flag-setting row: the result at x, else the flag at F, else as before (R153). -/
theorem State.reg_flagThenResult (s : State) (f : Byte) (x : Reg) (r : State → Byte) (k : Reg) :
    (s.flagThenResult f x r).reg k =
      if k = x then r (s.setReg .vf f) else if k = .vf then f else s.reg k := by
  simp [State.flagThenResult, State.reg_setReg]

/-- A flag-setting row writes registers only. -/
theorem State.flagThenResult_frame (s : State) (f : Byte) (x : Reg) (r : State → Byte) :
    s.flagThenResult f x r = { s with v := (s.flagThenResult f x r).v } := rfl

/-- A skip leaves PC two or four bytes past the opcode, and nothing else (R110). -/
theorem State.skipIf_eq (s : State) (c : Bool) :
    s.skipIf c = s.setPc (if c then s.pc + 2 else s.pc) := by
  cases c <;> rfl

end Sys2Proof.Machine
end

