-- ==== Sys2Proof/Laws/Draw.lean ====
section
/-! SUPPORT. What drawing can do: it changes VF, the display and DRAW only, keeps the display canonical and monochrome. -/

namespace Sys2Proof.Machine

/-- A change that drawing a pixel can make: VF and the display only; VF stays or is 1, every pixel stays or is
toggled, and a canonical display stays canonical. -/
structure DrawChange (s t : State) : Prop where
  eq : t = { s with v := t.v, disp := t.disp }
  regs : ∀ k, k ≠ Reg.vf → t.reg k = s.reg k
  vf : t.reg Reg.vf = s.reg Reg.vf ∨ t.reg Reg.vf = 1
  pixels : ∀ k, t.pixel k = s.pixel k ∨ t.pixel k = s.pixel k ^^^ 0xFF
  wf : Display.wf s.disp = true → Display.wf t.disp = true

theorem DrawChange.refl (s : State) : DrawChange s s :=
  ⟨rfl, fun _ _ => rfl, .inl rfl, fun _ => .inl rfl, id⟩

theorem DrawChange.trans {s t u : State} (h : DrawChange s t) (g : DrawChange t u) : DrawChange s u where
  eq := by rw [g.eq, h.eq]
  regs k hk := (g.regs k hk).trans (h.regs k hk)
  vf := by
    rcases g.vf with hg | hg
    · rcases h.vf with hh | hh
      · exact .inl (hg.trans hh)
      · exact .inr (hg.trans hh)
    · exact .inr hg
  pixels k := by
    rcases g.pixels k with hg | hg <;> rcases h.pixels k with hh | hh <;> simp [hg, hh]
  wf := g.wf ∘ h.wf

theorem pixelIndex_lt (xy : Byte × Byte) (i j : Nat) : pixelIndex xy i j < 2048 :=
  Nat.mod_lt _ (by omega)

/-- Toggling a pixel: VF is 1 where it was set, its byte is XORed, and nothing else changes (R191). -/
theorem State.togglePixel_change (s : State) {k : Nat} (hk : k < 2048) : DrawChange s (s.togglePixel k) where
  eq := by unfold State.togglePixel; split <;> rfl
  regs j hj := by
    unfold State.togglePixel
    split
    · exact (State.reg_congr (State.setPixel_v ..) j).trans (by rw [State.reg_setReg, if_neg hj])
    · exact State.reg_congr (State.setPixel_v ..) j
  vf := by
    unfold State.togglePixel
    split
    · exact .inr ((State.reg_congr (State.setPixel_v ..) _).trans (by simp))
    · exact .inl (State.reg_congr (State.setPixel_v ..) _)
  pixels j := by
    have hp : ∀ t : State, t.disp = s.disp → (t.setPixel k (s.pixel k ^^^ 0xFF)).pixel j = s.pixel j ∨
        (t.setPixel k (s.pixel k ^^^ 0xFF)).pixel j = s.pixel j ^^^ 0xFF := by
      intro t ht
      rw [State.pixel_setPixel]
      by_cases h : j = k
      · subst h; simp
      · simp [h, State.pixel_congr ht]
    unfold State.togglePixel
    split
    · exact hp _ rfl
    · exact hp _ rfl
  wf h := by
    unfold State.togglePixel
    split <;> exact Cells.wf_write hk h

theorem State.drawBit_change (x y : Reg) (l : Byte × Byte) (i : Nat) (row : Byte) (s : State) (j : Nat) :
    DrawChange s (s.drawBit x y l i row j) := by
  unfold State.drawBit
  split
  · exact s.togglePixel_change (pixelIndex_lt ..)
  · exact .refl s

/-- A change that each step of a loop makes, the loop makes. -/
theorem foldl_drawChange {α : Type} (f : State → α → State) (hf : ∀ s a, DrawChange s (f s a)) (l : List α)
    (s : State) : DrawChange s (l.foldl f s) := by
  induction l generalizing s with
  | nil => exact .refl s
  | cons a l ih => exact (hf s a).trans (ih _)

theorem State.drawRow_change (x y : Reg) (l : Byte × Byte) (s : State) (i : Nat) :
    DrawChange s (State.drawRow x y l s i) :=
  foldl_drawChange _ (fun t j => t.drawBit_change x y l i _ j) _ s

/-- The rows of a sprite, from the state in which VF is 0. -/
theorem State.drawRows_change (x y : Reg) (l : Byte × Byte) (n : Nat) (s : State) :
    DrawChange s ((List.range n).foldl (State.drawRow x y l) s) :=
  foldl_drawChange _ (fun t i => State.drawRow_change x y l t i) _ s

/-- Drawing writes VF, the display and DRAW only. -/
theorem State.drawSprite_frame (s : State) (x y : Reg) (n : Nat) :
    s.drawSprite x y n =
      { s with v := (s.drawSprite x y n).v, disp := (s.drawSprite x y n).disp, draw := true } := by
  have h := (State.drawRows_change x y (s.reg x, s.reg y) n (s.setReg .vf 0)).eq
  unfold State.drawSprite State.setDraw
  rw [h]; rfl

/-- Drawing leaves every register but VF. -/
theorem State.drawSprite_reg (s : State) (x y : Reg) (n : Nat) {k : Reg} (hk : k ≠ .vf) :
    (s.drawSprite x y n).reg k = s.reg k := by
  have h := (State.drawRows_change x y (s.reg x, s.reg y) n (s.setReg .vf 0)).regs k hk
  exact (State.reg_congr (State.setDraw_v ..) k).trans (h.trans (by rw [State.reg_setReg, if_neg hk]))

/-- After drawing VF is 0 or 1 (R191). -/
theorem State.drawSprite_vf (s : State) (x y : Reg) (n : Nat) :
    (s.drawSprite x y n).reg .vf = 0 ∨ (s.drawSprite x y n).reg .vf = 1 := by
  have h := (State.drawRows_change x y (s.reg x, s.reg y) n (s.setReg .vf 0)).vf
  have e := State.reg_congr (State.setDraw_v
    ((List.range n).foldl (State.drawRow x y (s.reg x, s.reg y)) (s.setReg .vf 0)) true) .vf
  rw [State.reg_setReg_same] at h
  unfold State.drawSprite
  rcases h with h | h
  · exact .inl (e.trans h)
  · exact .inr (e.trans h)

/-- Drawing leaves or toggles each pixel (R193). -/
theorem State.drawSprite_pixel (s : State) (x y : Reg) (n k : Nat) :
    (s.drawSprite x y n).pixel k = s.pixel k ∨ (s.drawSprite x y n).pixel k = s.pixel k ^^^ 0xFF :=
  (State.drawRows_change x y (s.reg x, s.reg y) n (s.setReg .vf 0)).pixels k

/-- Drawing keeps the display canonical. -/
theorem State.drawSprite_wf {s : State} (x y : Reg) (n : Nat) (h : Display.wf s.disp = true) :
    Display.wf (s.drawSprite x y n).disp = true :=
  (State.drawRows_change x y (s.reg x, s.reg y) n (s.setReg .vf 0)).wf h

end Sys2Proof.Machine
end

