-- ==== Sys2Proof/Laws/Step.lean ====
section
/-! SUPPORT. What a step can do, said once: stuck, a fetch fault, or one instruction and the end of the step. -/

namespace Sys2Proof.Machine

/-- The fetch reads the opcode at PC (R65, R90). -/
theorem State.fetch_eq {s : State} (h : s.pc.toNat ≤ 0xFFE) : s.fetch = some s.opcodeAtPc := by
  unfold State.fetch
  rw [if_neg (by omega), opcodeOfBytes_eq]
  rfl

theorem State.fetch_none {s : State} (h : 0xFFE < s.pc.toNat) : s.fetch = none := by
  unfold State.fetch
  rw [if_pos h]

theorem step_stuck {s : State} {k : Fault} (h : s.fault = some k) : step s = .next s.stuckStep := by
  simp [step, h]

theorem step_fetchFault {s : State} (h : s.fault = none) (hp : 0xFFE < s.pc.toNat) :
    step s = .next s.fetchFault := by
  simp [step, h, State.fetch_none hp]

theorem step_exec {s : State} (h : s.fault = none) (hp : s.pc.toNat ≤ 0xFFE) :
    step s = finishStep (exec (decode s.opcodeAtPc) s) := by
  simp [step, h, State.fetch_eq hp]

/-- Inversion: the three things a step can do. -/
theorem step_cases {s u : State} (h : step s = .next u) :
    (∃ k, s.fault = some k ∧ u = s.stuckStep) ∨
    (s.fault = none ∧ 0xFFE < s.pc.toNat ∧ u = s.fetchFault) ∨
    (s.fault = none ∧ s.pc.toNat ≤ 0xFFE ∧ ∃ t, exec (decode s.opcodeAtPc) s = .next t ∧ u = t.endStep) := by
  cases hf : s.fault with
  | some k => rw [step_stuck hf] at h; cases h; exact .inl ⟨k, rfl, rfl⟩
  | none =>
    by_cases hp : s.pc.toNat ≤ 0xFFE
    · rw [step_exec hf hp] at h
      cases he : exec (decode s.opcodeAtPc) s with
      | next t => rw [he] at h; cases h; exact .inr (.inr ⟨rfl, hp, t, rfl, rfl⟩)
      | fault r => rw [he] at h; cases h
      | refused r => rw [he] at h; cases h
    · rw [step_fetchFault hf (by omega)] at h; cases h; exact .inr (.inl ⟨rfl, by omega, rfl⟩)

end Sys2Proof.Machine
end

