-- ==== Sys2Proof/Laws/Frame.lean ====
section
/-! SUPPORT. Frames: what each update changes, how frames compose. -/

namespace Sys2Proof.Machine

variable {w w' : Piece → Prop} {s t u : State}

theorem OnlyChanges.mono (h : OnlyChanges w s t) (hw : ∀ p, w p → w' p) : OnlyChanges w' s t :=
  fun p hp => h p fun hq => hp (hw p hq)

theorem OnlyChanges.refl (w : Piece → Prop) (s : State) : OnlyChanges w s s := by
  intro p _; cases p <;> rfl

theorem Piece.same_trans {p : Piece} (h : p.same s t) (g : p.same t u) : p.same s u := by
  cases p <;> exact Eq.trans g h

theorem OnlyChanges.trans (h : OnlyChanges w s t) (g : OnlyChanges w t u) : OnlyChanges w s u :=
  fun p hp => Piece.same_trans (h p hp) (g p hp)

theorem onlyChanges_setReg (s : State) (x : Reg) (b : Byte) :
    OnlyChanges (fun p => p = .reg x) s (s.setReg x b) := by
  intro p hp
  cases p with
  | reg k => exact (State.reg_setReg ..).trans (if_neg fun h => hp (by rw [h]))
  | _ => rfl

theorem onlyChanges_setPc (s : State) (v : Word) : OnlyChanges (fun p => p = .pc) s (s.setPc v) := by
  intro p hp; cases p <;> first | rfl | exact absurd rfl hp

theorem onlyChanges_setI (s : State) (v : Word) : OnlyChanges (fun p => p = .i) s (s.setI v) := by
  intro p hp; cases p <;> first | rfl | exact absurd rfl hp

theorem onlyChanges_setDt (s : State) (b : Byte) : OnlyChanges (fun p => p = .dt) s (s.setDt b) := by
  intro p hp; cases p <;> first | rfl | exact absurd rfl hp

theorem onlyChanges_setSt (s : State) (b : Byte) : OnlyChanges (fun p => p = .st) s (s.setSt b) := by
  intro p hp; cases p <;> first | rfl | exact absurd rfl hp

theorem onlyChanges_setDraw (s : State) (b : Bool) :
    OnlyChanges (fun p => p = .draw) s (s.setDraw b) := by
  intro p hp; cases p <;> first | rfl | exact absurd rfl hp

theorem onlyChanges_clearDisplay (s : State) :
    OnlyChanges (fun p => ∃ k, p = .pixel k) s s.clearDisplay := by
  intro p hp
  cases p with
  | pixel k => exact absurd ⟨k, rfl⟩ hp
  | _ => rfl

theorem onlyChanges_setPixel (s : State) (k : Nat) (b : Byte) :
    OnlyChanges (fun p => p = .pixel k) s (s.setPixel k b) := by
  intro p hp
  cases p with
  | pixel j => exact (State.pixel_setPixel ..).trans (if_neg fun h => hp (by rw [h]))
  | _ => rfl

theorem onlyChanges_advance (s : State) : OnlyChanges (fun p => p = .pc) s s.advance :=
  onlyChanges_setPc _ _

theorem onlyChanges_skipIf (s : State) (c : Bool) : OnlyChanges (fun p => p = .pc) s (s.skipIf c) := by
  rw [State.skipIf_eq]; exact onlyChanges_setPc _ _

theorem onlyChanges_writeBytes (s : State) (a : Nat) (bs : List Byte) :
    OnlyChanges (fun p => ∃ k < bs.length, p = .mem (a + k)) s (s.writeBytes a bs) := by
  intro p hp
  have hf := State.writeBytes_frame s a bs
  cases p with
  | mem b =>
    refine (State.readByte_writeBytes ..).trans (dif_neg fun h => hp ⟨b - a, by omega, ?_⟩)
    congr 1; omega
  | _ => simp only [Piece.same]; rw [hf]; try rfl

theorem onlyChanges_fillRegs (s : State) {n : Nat} (hn : n ≤ 16) :
    OnlyChanges (fun p => ∃ k : Reg, k.val < n ∧ p = .reg k) s (s.fillRegs n) := by
  intro p hp
  have hf := State.fillRegs_frame s n
  cases p with
  | reg k => exact (State.reg_fillRegs s n hn k).trans (if_neg fun h => hp ⟨k, h, rfl⟩)
  | _ => simp only [Piece.same]; rw [hf]; try rfl

theorem onlyChanges_flagThenResult (s : State) (f : Byte) (x : Reg) (r : State → Byte) :
    OnlyChanges (fun p => p = .reg x ∨ p = .reg 0xF) s (s.flagThenResult f x r) :=
  ((onlyChanges_setReg s .vf f).mono fun _ h => .inr h).trans
    ((onlyChanges_setReg _ x _).mono fun _ h => .inl h)

theorem onlyChanges_drawSprite (s : State) (x y : Reg) (n : Nat) :
    OnlyChanges (fun p => p = .draw ∨ p = .reg 0xF ∨ ∃ k, p = .pixel k) s (s.drawSprite x y n) := by
  intro p hp
  have hf := State.drawSprite_frame s x y n
  cases p with
  | reg k => exact State.drawSprite_reg s x y n fun h => hp (.inr (.inl (by rw [h])))
  | pixel k => exact absurd (.inr (.inr ⟨k, rfl⟩)) hp
  | draw => exact absurd (.inl rfl) hp
  | _ => simp only [Piece.same]; rw [hf]; try rfl

end Sys2Proof.Machine
end

