-- ==== Sys2Proof/Laws/Exec.lean ====
section
/-! SUPPORT. What the execute phase of any instruction can do to the fault latch and to the fields no instruction
writes, said once: it completes, or it enters a fault of the kind the instruction raises. -/

namespace Sys2Proof.Machine

/-- What every completed execute phase keeps. -/
structure Completes (s t : State) : Prop where
  fault : t.fault = s.fault
  beep : t.beep = s.beep
  key : t.key = s.key
  cfg : t.cfg = s.cfg
  rndIn : t.rndIn = s.rndIn
  draws : t.draws = s.draws

/-- When the execute phase of an instruction raises a fault of kind `k` (R251). -/
def raises (i : Instr) (s : State) : Fault → Prop
  | .fetchOutOfRange => False
  | .stackOverflow => (∃ nnn, i = .call nnn) ∧ s.sp.val = 16
  | .stackUnderflow => i = .ret ∧ s.sp.val = 0
  | .memoryOutOfRange => ∃ m, maxOffset i = some m ∧ s.i.toNat + m > 0xFFF
  | .keyIndexOutOfRange => ∃ x, (i = .skp x ∨ i = .sknp x) ∧ (s.reg x).toNat > 0xF

/-- A frame that touches none of the kept fields. -/
theorem OnlyChanges.completes {w : Piece → Prop} {s t : State} (h : OnlyChanges w s t)
    (hw : ∀ p, w p → p ≠ .fault ∧ p ≠ .beep ∧ p ≠ .key ∧ p ≠ .cfg ∧ p ≠ .rndIn ∧ p ≠ .draws) :
    Completes s t where
  fault := h .fault fun e => (hw _ e).1 rfl
  beep := h .beep fun e => (hw _ e).2.1 rfl
  key := h .key fun e => (hw _ e).2.2.1 rfl
  cfg := h .cfg fun e => (hw _ e).2.2.2.1 rfl
  rndIn := h .rndIn fun e => (hw _ e).2.2.2.2.1 rfl
  draws := h .draws fun e => (hw _ e).2.2.2.2.2 rfl

/-- The body of a memory instruction behind its range check. -/
theorem checkRange_execCases {i : Instr} {s t : State} {m : Nat} {f : State → State}
    (hm : maxOffset i = some m) (hu : Completes s (f s.advance))
    (h : executing s (fun v => v.checkRange m (f v)) = .next t) :
    Completes s t ∨ ∃ k, t = s.takeFault k ∧ raises i s k := by
  rcases s.advance.checkRange_cases m (f s.advance) with ⟨_, e⟩ | ⟨g, e⟩
  · rw [executing_ok e] at h; cases h; exact .inl hu
  · rw [executing_error e] at h; cases h; exact .inr ⟨_, rfl, m, hm, g⟩

/-- Inversion of the execute phase: it completes, or it enters a fault the instruction raises. -/
theorem exec_cases {i : Instr} {s t : State} (h : exec i s = .next t) :
    Completes s t ∨ ∃ k, t = s.takeFault k ∧ raises i s k := by
  cases i
  case ret =>
    simp only [exec, execRet] at h
    rcases s.advance.popPc_cases with ⟨h1, h2⟩ | ⟨_, h2⟩
    · rw [executing_error h2] at h; cases h; exact .inr ⟨_, rfl, rfl, h1⟩
    · rw [executing_ok h2] at h; cases h; exact .inl ⟨rfl, rfl, rfl, rfl, rfl, rfl⟩
  case call nnn =>
    simp only [exec, execCall] at h
    rcases s.advance.pushPc_cases with ⟨h1, h2⟩ | ⟨_, h2⟩
    · rw [executing_error (k := .stackOverflow) (by rw [h2]; rfl)] at h
      cases h; exact .inr ⟨_, rfl, ⟨nnn, rfl⟩, h1⟩
    · rw [executing_ok (by rw [h2]; rfl)] at h; cases h; exact .inl ⟨rfl, rfl, rfl, rfl, rfl, rfl⟩
  case skp x =>
    simp only [exec, execSkp] at h
    rcases s.advance.keyOperand_cases x with ⟨_, h2⟩ | ⟨h1, h2⟩
    · rw [executing_ok (by rw [h2]; rfl)] at h
      cases h; simp only [State.skipIf_eq]; exact .inl ⟨rfl, rfl, rfl, rfl, rfl, rfl⟩
    · rw [executing_error (k := .keyIndexOutOfRange) (by rw [h2]; rfl)] at h
      cases h; exact .inr ⟨_, rfl, x, .inl rfl, h1⟩
  case sknp x =>
    simp only [exec, execSknp] at h
    rcases s.advance.keyOperand_cases x with ⟨_, h2⟩ | ⟨h1, h2⟩
    · rw [executing_ok (by rw [h2]; rfl)] at h
      cases h; simp only [State.skipIf_eq]; exact .inl ⟨rfl, rfl, rfl, rfl, rfl, rfl⟩
    · rw [executing_error (k := .keyIndexOutOfRange) (by rw [h2]; rfl)] at h
      cases h; exact .inr ⟨_, rfl, x, .inr rfl, h1⟩
  case ldB x =>
    simp only [exec, execLdB] at h
    refine checkRange_execCases (f := fun t => t.writeBytes (t.effAddr 0) (bcdDigits (t.reg x))) rfl ?_ h
    rw [State.writeBytes_frame]; exact ⟨rfl, rfl, rfl, rfl, rfl, rfl⟩
  case storeRegs x =>
    simp only [exec, execStoreRegs] at h
    refine checkRange_execCases (f := fun t => t.writeBytes (t.effAddr 0) (t.regsThrough x)) rfl ?_ h
    rw [State.writeBytes_frame]; exact ⟨rfl, rfl, rfl, rfl, rfl, rfl⟩
  case loadRegs x =>
    simp only [exec, execLoadRegs] at h
    refine checkRange_execCases (f := fun t => t.fillRegs (x.val + 1)) rfl ?_ h
    rw [State.fillRegs_frame]; exact ⟨rfl, rfl, rfl, rfl, rfl, rfl⟩
  case drw x y n =>
    simp only [exec, execDrw] at h
    by_cases hn : n.toNat = 0
    · simp only [hn] at h
      rw [executing_eq] at h
      cases h; simp only [if_true]; rw [State.drawSprite_frame]; exact .inl ⟨rfl, rfl, rfl, rfl, rfl, rfl⟩
    · simp only [hn, if_false] at h
      refine checkRange_execCases (f := fun v => v.drawSprite x y n.toNat) (m := n.toNat - 1) ?_ ?_ h
      · exact if_neg fun e => hn (by rw [e]; rfl)
      · rw [State.drawSprite_frame]; exact ⟨rfl, rfl, rfl, rfl, rfl, rfl⟩
  case ldVxK x =>
    simp only [exec, execLdVxK] at h
    rw [executing_eq] at h
    cases h
    refine .inl ?_
    cases s.advance.firstKey <;> exact ⟨rfl, rfl, rfl, rfl, rfl, rfl⟩
  all_goals
    simp only [exec, execCls, execJp, execJpV0, execSeByte, execSneByte, execSeReg, execSneReg, execLdByte,
      execAddByte, execLdReg, execOrReg, execAndReg, execXorReg, execAddReg, execSubReg, execShr, execSubnReg,
      execShl, execRnd, execLdI, execAddI, execLdF, execLdVxDt, execLdDtVx, execLdStVx, execNop0, execNop8,
      execNopE, execNopF] at h
    rw [executing_eq] at h
    cases h
    try rw [State.skipIf_eq]
    exact .inl ⟨rfl, rfl, rfl, rfl, rfl, rfl⟩

end Sys2Proof.Machine
end

