-- ==== Sys2Proof/Laws/PerInstr.lean ====
section
/-! SUPPORT. The per-instruction family EncodedFamily: the top nibble of an instruction's word is its family (R84). -/

namespace Sys2Proof.Laws.EncodedFamily

open Sys2Proof.Machine

/-- The family of an instruction, the first nibble of its pattern (R82, R94). -/
def familyNumber : Instr → Nibble
  | .cls => 0x0
  | .ret => 0x0
  | .jp _ => 0x1
  | .call _ => 0x2
  | .seByte _ _ => 0x3
  | .sneByte _ _ => 0x4
  | .seReg _ _ _ => 0x5
  | .ldByte _ _ => 0x6
  | .addByte _ _ => 0x7
  | .ldReg _ _ => 0x8
  | .orReg _ _ => 0x8
  | .andReg _ _ => 0x8
  | .xorReg _ _ => 0x8
  | .addReg _ _ => 0x8
  | .subReg _ _ => 0x8
  | .shr _ _ => 0x8
  | .subnReg _ _ => 0x8
  | .shl _ _ => 0x8
  | .sneReg _ _ _ => 0x9
  | .ldI _ => 0xA
  | .jpV0 _ => 0xB
  | .rnd _ _ => 0xC
  | .drw _ _ _ => 0xD
  | .skp _ => 0xE
  | .sknp _ => 0xE
  | .ldVxDt _ => 0xF
  | .ldVxK _ => 0xF
  | .ldDtVx _ => 0xF
  | .ldStVx _ => 0xF
  | .addI _ => 0xF
  | .ldF _ => 0xF
  | .ldB _ => 0xF
  | .storeRegs _ => 0xF
  | .loadRegs _ => 0xF
  | .nop0 _ => 0x0
  | .nop8 _ _ _ => 0x8
  | .nopE _ _ => 0xE
  | .nopF _ _ => 0xF

/-- The word of an instruction has its family as top nibble. -/
def Statement (i : Instr) : Prop := familyOf (encode i) = familyNumber i

theorem cls : Statement (.cls) := familyOf_formatA ..
theorem ret : Statement (.ret) := familyOf_formatA ..
theorem jp (nnn : Addr) : Statement (.jp nnn) := familyOf_formatA ..
theorem call (nnn : Addr) : Statement (.call nnn) := familyOf_formatA ..
theorem seByte (x : Reg) (nn : Byte) : Statement (.seByte x nn) := familyOf_formatXK ..
theorem sneByte (x : Reg) (nn : Byte) : Statement (.sneByte x nn) := familyOf_formatXK ..
theorem seReg (x : Reg) (y : Reg) (n : Nibble) : Statement (.seReg x y n) := familyOf_formatXY ..
theorem ldByte (x : Reg) (nn : Byte) : Statement (.ldByte x nn) := familyOf_formatXK ..
theorem addByte (x : Reg) (nn : Byte) : Statement (.addByte x nn) := familyOf_formatXK ..
theorem ldReg (x : Reg) (y : Reg) : Statement (.ldReg x y) := familyOf_formatXY ..
theorem orReg (x : Reg) (y : Reg) : Statement (.orReg x y) := familyOf_formatXY ..
theorem andReg (x : Reg) (y : Reg) : Statement (.andReg x y) := familyOf_formatXY ..
theorem xorReg (x : Reg) (y : Reg) : Statement (.xorReg x y) := familyOf_formatXY ..
theorem addReg (x : Reg) (y : Reg) : Statement (.addReg x y) := familyOf_formatXY ..
theorem subReg (x : Reg) (y : Reg) : Statement (.subReg x y) := familyOf_formatXY ..
theorem shr (x : Reg) (y : Reg) : Statement (.shr x y) := familyOf_formatXY ..
theorem subnReg (x : Reg) (y : Reg) : Statement (.subnReg x y) := familyOf_formatXY ..
theorem shl (x : Reg) (y : Reg) : Statement (.shl x y) := familyOf_formatXY ..
theorem sneReg (x : Reg) (y : Reg) (n : Nibble) : Statement (.sneReg x y n) := familyOf_formatXY ..
theorem ldI (nnn : Addr) : Statement (.ldI nnn) := familyOf_formatA ..
theorem jpV0 (nnn : Addr) : Statement (.jpV0 nnn) := familyOf_formatA ..
theorem rnd (x : Reg) (nn : Byte) : Statement (.rnd x nn) := familyOf_formatXK ..
theorem drw (x : Reg) (y : Reg) (n : Nibble) : Statement (.drw x y n) := familyOf_formatXY ..
theorem skp (x : Reg) : Statement (.skp x) := familyOf_formatXK ..
theorem sknp (x : Reg) : Statement (.sknp x) := familyOf_formatXK ..
theorem ldVxDt (x : Reg) : Statement (.ldVxDt x) := familyOf_formatXK ..
theorem ldVxK (x : Reg) : Statement (.ldVxK x) := familyOf_formatXK ..
theorem ldDtVx (x : Reg) : Statement (.ldDtVx x) := familyOf_formatXK ..
theorem ldStVx (x : Reg) : Statement (.ldStVx x) := familyOf_formatXK ..
theorem addI (x : Reg) : Statement (.addI x) := familyOf_formatXK ..
theorem ldF (x : Reg) : Statement (.ldF x) := familyOf_formatXK ..
theorem ldB (x : Reg) : Statement (.ldB x) := familyOf_formatXK ..
theorem storeRegs (x : Reg) : Statement (.storeRegs x) := familyOf_formatXK ..
theorem loadRegs (x : Reg) : Statement (.loadRegs x) := familyOf_formatXK ..
theorem nop0 (nnn : Addr) : Statement (.nop0 nnn) := familyOf_formatA ..
theorem nop8 (x : Reg) (y : Reg) (n : Nibble) : Statement (.nop8 x y n) := familyOf_formatXY ..
theorem nopE (x : Reg) (nn : Byte) : Statement (.nopE x nn) := familyOf_formatXK ..
theorem nopF (x : Reg) (nn : Byte) : Statement (.nopF x nn) := familyOf_formatXK ..

end Sys2Proof.Laws.EncodedFamily
end

