-- ==== Sys2Proof/Tests/Slice0.lean ====
section
/-! SUPPORT. The model's own tests. Words are written out from the formats of R82 and the patterns of R94; expected
results are the spec's (95_test_vectors.md, whose numbers W and V are named). Then a witness for the hypotheses of each
obligation. -/

namespace Sys2Proof.Tests

open Sys2Proof Sys2Proof.Machine

/-! ## Well-formedness: one ill-formed term for each check -/

theorem test_wf_refuses_nop0_on_cls : (Instr.nop0 0x0E0).wf = false := by decide
theorem test_wf_refuses_nop0_on_ret : (Instr.nop0 0x0EE).wf = false := by decide
theorem test_wf_refuses_nop8_on_add : (Instr.nop8 0x1 0x2 0x4).wf = false := by decide
theorem test_wf_refuses_nopE_on_skp : (Instr.nopE 0x5 0x9E).wf = false := by decide
theorem test_wf_refuses_nopF_on_load : (Instr.nopF 0x5 0x65).wf = false := by decide
theorem test_wf_accepts_unmapped :
    (Instr.nop0 0x123).wf ∧ (Instr.nop8 0xA 0xB 0xF).wf ∧ (Instr.nopE 0x0 0xFF).wf ∧ (Instr.nopF 0x0 0xFF).wf := by
  decide

/-! ## Decoding: a word of every constructor, bit by bit from R82 -/

theorem test_decode_family_0 :
    decode 0b0000000011100000 = .cls ∧ decode 0b0000000011101110 = .ret ∧
    decode 0b0000000100100011 = .nop0 0x123 := by decide

theorem test_decode_jumps :
    decode 0b0001001000000100 = .jp 0x204 ∧ decode 0b0010001000010000 = .call 0x210 ∧
    decode 0b1011001100000000 = .jpV0 0x300 := by decide

theorem test_decode_skips :
    decode 0b0011101000101011 = .seByte 0xA 0x2B ∧ decode 0b0100101000101011 = .sneByte 0xA 0x2B ∧
    decode 0b0101101010110111 = .seReg 0xA 0xB 0x7 ∧ decode 0b1001101010110011 = .sneReg 0xA 0xB 0x3 := by decide

theorem test_decode_immediates :
    decode 0b0110101000101011 = .ldByte 0xA 0x2B ∧ decode 0b0111000000001010 = .addByte 0x0 0x0A ∧
    decode 0b1010001100000000 = .ldI 0x300 ∧ decode 0b1100001100001111 = .rnd 0x3 0x0F := by decide

theorem test_decode_family_8 :
    decode 0b1000000000010000 = .ldReg 0x0 0x1 ∧ decode 0b1000000000010001 = .orReg 0x0 0x1 ∧
    decode 0b1000000000010010 = .andReg 0x0 0x1 ∧ decode 0b1000000000010011 = .xorReg 0x0 0x1 ∧
    decode 0b1000000000010100 = .addReg 0x0 0x1 ∧ decode 0b1000000000010101 = .subReg 0x0 0x1 ∧
    decode 0b1000001010010110 = .shr 0x2 0x9 ∧ decode 0b1000000100100111 = .subnReg 0x1 0x2 ∧
    decode 0b1000001000001110 = .shl 0x2 0x0 ∧ decode 0b1000101010111000 = .nop8 0xA 0xB 0x8 := by decide

theorem test_decode_draw : decode 0b1101000000010010 = .drw 0x0 0x1 0x2 := by decide

theorem test_decode_family_E :
    decode 0b1110010110011110 = .skp 0x5 ∧ decode 0b1110010110100001 = .sknp 0x5 ∧
    decode 0b1110000011111111 = .nopE 0x0 0xFF := by decide

theorem test_decode_family_F :
    decode 0b1111010100000111 = .ldVxDt 0x5 ∧ decode 0b1111001000001010 = .ldVxK 0x2 ∧
    decode 0b1111000100010101 = .ldDtVx 0x1 ∧ decode 0b1111000100011000 = .ldStVx 0x1 ∧
    decode 0b1111000100011110 = .addI 0x1 ∧ decode 0b1111000100101001 = .ldF 0x1 ∧
    decode 0b1111001100110011 = .ldB 0x3 ∧ decode 0b1111001001010101 = .storeRegs 0x2 ∧
    decode 0b1111001001100101 = .loadRegs 0x2 ∧ decode 0b1111000011111111 = .nopF 0x0 0xFF := by decide

/-- The first byte of a word is its high byte (R65), and a list of one byte holds no instruction. -/
theorem test_decode_bytes :
    decodeBytes [0x12, 0x04, 0x99] = .ok (.jp 0x204, [0x99]) ∧ decodeBytes [0x12] = .error .truncated ∧
    decodeTableWord 16 0x1204 = some (.jp 0x204) := by
  refine ⟨?_, ?_, ?_⟩ <;> decide

/-! ## One step -/

/-- The base state of 95_test_vectors.md. -/
def base : State := { State.reset with dt := 0, st := 0 }

/-- The state with these registers. -/
def withRegs (s : State) (l : List (Reg × Byte)) : State := l.foldl (fun s p => s.setReg p.1 p.2) s

/-- The state with these memory bytes. -/
def withMem (s : State) (l : List (Nat × Byte)) : State := l.foldl (fun s p => s.writeByte p.1 p.2) s

/-- The state with these keys pressed. -/
def withKeys (s : State) (l : List Nat) : State := { s with key := Vector.ofFn fun k => l.contains k.val }

/-- The state an outcome holds, if it holds one. -/
def nextOf : Host.Outcome State Fault Refusal → Option State
  | .next t => some t
  | .fault _ => none
  | .refused _ => none

/-- The state after one step that fetches the word `w`. -/
def run1 (w : Nat) (s : State) : State := (nextOf (step (s.withFetchWord 16 w))).getD s

/-- W4. -/
theorem test_cls : (run1 0x00E0 { base with disp := [(5, 0xFF), (2047, 0xFF)] }).disp = [] ∧
    (run1 0x00E0 base).draw = true := by decide

/-- V1, V2. -/
theorem test_ret :
    (run1 0x00EE { base with sp := 1, stack := base.stack.set 0 0x206 }).pc = 0x206 ∧
    (run1 0x00EE { base with sp := 1, stack := base.stack.set 0 0x206 }).sp = 0 := by decide
theorem test_ret_underflow :
    (run1 0x00EE base).fault = some .stackUnderflow ∧ (run1 0x00EE base).pc = 0x200 := by decide

/-- V3, V4. -/
theorem test_call :
    (run1 0x2210 { base with pc := 0x204 }).stack[0] = 0x206 ∧
    (run1 0x2210 { base with pc := 0x204 }).sp = 1 ∧ (run1 0x2210 { base with pc := 0x204 }).pc = 0x210 := by
  decide
theorem test_call_overflow :
    (run1 0x2210 { base with sp := 16 }).fault = some .stackOverflow ∧
    (run1 0x2210 { base with sp := 16 }).sp = 16 := by decide

/-- V6, its second step: the fetch at 0xFFF faults. -/
theorem test_jp_then_fetch_fault :
    (run1 0x1FFF base).pc = 0xFFF ∧
    (nextOf (step (run1 0x1FFF base))).map (·.fault) = some (some .fetchOutOfRange) := by decide

/-- V8. -/
theorem test_jpV0 : (run1 0xBFFF (withRegs base [(0x0, 0xFF)])).pc = 0x10FE := by decide

/-- V9, V10; V11, V12. -/
theorem test_se_byte :
    (run1 0x3A2B (withRegs base [(0xA, 0x2B)])).pc = 0x204 ∧
    (run1 0x3A2B (withRegs base [(0xA, 0x2C)])).pc = 0x202 := by decide
theorem test_sne_byte :
    (run1 0x4A2B (withRegs base [(0xA, 0x2B)])).pc = 0x202 ∧
    (run1 0x4A2B (withRegs base [(0xA, 0x2C)])).pc = 0x204 := by decide

/-- V15 and V14; V18 and V17. -/
theorem test_se_reg :
    (run1 0x5AB7 (withRegs base [(0xA, 0x07), (0xB, 0x07)])).pc = 0x204 ∧
    (run1 0x5AB0 (withRegs base [(0xA, 0x07), (0xB, 0x08)])).pc = 0x202 := by decide
theorem test_sne_reg :
    (run1 0x9AB3 (withRegs base [(0xA, 0x07), (0xB, 0x08)])).pc = 0x204 ∧
    (run1 0x9AB0 (withRegs base [(0xA, 0x07), (0xB, 0x07)])).pc = 0x202 := by decide

/-- V20, W2, V22. -/
theorem test_ld_byte : (run1 0x6A2B base).reg 0xA = 0x2B := by decide
theorem test_add_byte :
    (run1 0x700A (withRegs base [(0x0, 0xFA), (0xF, 0x05)])).reg 0x0 = 0x04 ∧
    (run1 0x700A (withRegs base [(0x0, 0xFA), (0xF, 0x05)])).reg 0xF = 0x05 ∧
    (run1 0x7F01 (withRegs base [(0xF, 0x05)])).reg 0xF = 0x06 := by decide

/-- V23 to V26. -/
theorem test_ld_reg : (run1 0x8010 (withRegs base [(0x1, 0x33)])).reg 0x0 = 0x33 := by decide
theorem test_or : (run1 0x8011 (withRegs base [(0x0, 0xF0), (0x1, 0x0F)])).reg 0x0 = 0xFF := by decide
theorem test_and : (run1 0x8012 (withRegs base [(0x0, 0xF0), (0x1, 0x3C)])).reg 0x0 = 0x30 := by decide
theorem test_xor : (run1 0x8013 (withRegs base [(0x0, 0xF0), (0x1, 0x3C)])).reg 0x0 = 0xCC := by decide

/-- W3, V44. -/
theorem test_add_carry :
    (run1 0x8014 (withRegs base [(0x0, 200), (0x1, 100)])).reg 0x0 = 44 ∧
    (run1 0x8014 (withRegs base [(0x0, 200), (0x1, 100)])).reg 0xF = 1 := by decide
theorem test_add_vf : (run1 0x8F14 (withRegs base [(0xF, 0xFF), (0x1, 0x01)])).reg 0xF = 0x02 := by decide

/-- V31, V33. -/
theorem test_sub_borrow :
    (run1 0x8015 (withRegs base [(0x0, 44), (0x1, 100)])).reg 0x0 = 0xC8 ∧
    (run1 0x8015 (withRegs base [(0x0, 44), (0x1, 100)])).reg 0xF = 0 := by decide
theorem test_sub_equal :
    (run1 0x8015 (withRegs base [(0x0, 9), (0x1, 9)])).reg 0x0 = 0 ∧
    (run1 0x8015 (withRegs base [(0x0, 9), (0x1, 9)])).reg 0xF = 1 := by decide

/-- V35, V36. -/
theorem test_shr :
    (run1 0x8296 (withRegs base [(0x2, 0x05), (0x9, 0xFF)])).reg 0x2 = 0x02 ∧
    (run1 0x8296 (withRegs base [(0x2, 0x05), (0x9, 0xFF)])).reg 0xF = 1 := by decide
theorem test_shr_vf : (run1 0x8F06 (withRegs base [(0xF, 0xFF)])).reg 0xF = 0x00 := by decide

/-- V38, V51. -/
theorem test_subn_borrow :
    (run1 0x8127 (withRegs base [(0x1, 30), (0x2, 10)])).reg 0x1 = 0xEC ∧
    (run1 0x8127 (withRegs base [(0x1, 30), (0x2, 10)])).reg 0xF = 0 := by decide
theorem test_subn_vf :
    (run1 0x80F7 (withRegs base [(0x0, 0x10), (0xF, 0x20)])).reg 0x0 = 0xF1 ∧
    (run1 0x80F7 (withRegs base [(0x0, 0x10), (0xF, 0x20)])).reg 0xF = 1 := by decide

/-- V40, V42. -/
theorem test_shl :
    (run1 0x820E (withRegs base [(0x2, 0x81)])).reg 0x2 = 0x02 ∧
    (run1 0x820E (withRegs base [(0x2, 0x81)])).reg 0xF = 1 := by decide
theorem test_shl_vf : (run1 0x8FFE (withRegs base [(0xF, 0x80)])).reg 0xF = 0x02 := by decide

/-- V54. -/
theorem test_rnd : (run1 0xC30F { base with rndIn := [0xA7] }).reg 0x3 = 0x07 := by decide

/-- V57; V58, V59; V61. -/
theorem test_ld_i : (run1 0xA300 base).i = 0x300 := by decide
theorem test_add_i :
    (run1 0xF01E (withRegs { base with i := 0xFFF } [(0x0, 0x01)])).i = 0x1000 ∧
    (run1 0xF01E (withRegs { base with i := 0xFFFF } [(0x0, 0x02)])).i = 0x0001 := by decide
theorem test_ld_f : (run1 0xF029 (withRegs base [(0x0, 0xFF)])).i = 0x4FB := by decide

/-- W6, V63. -/
theorem test_bcd :
    ([0x300, 0x301, 0x302].map fun a => (run1 0xF033 (withRegs { base with i := 0x300 } [(0x0, 234)])).readByte a)
      = [2, 3, 4] := by decide
theorem test_bcd_fault :
    (run1 0xF033 (withRegs { base with i := 0xFFE } [(0x0, 255)])).fault = some .memoryOutOfRange := by decide

/-- V64, V66. -/
theorem test_store_regs :
    ([0x300, 0x301, 0x302, 0x303].map fun a =>
      (run1 0xF255 (withRegs { base with i := 0x300 } [(0x0, 1), (0x1, 2), (0x2, 3), (0x3, 4)])).readByte a)
      = [1, 2, 3, 0] := by decide
theorem test_store_regs_fault :
    (run1 0xFF55 { base with i := 0xFF1 }).fault = some .memoryOutOfRange := by decide

/-- V67, V68. -/
theorem test_load_regs :
    (run1 0xF065 (withMem { base with i := 0xFFF } [(0xFFF, 0x77)])).reg 0x0 = 0x77 := by decide
theorem test_load_regs_fault :
    (run1 0xFF65 { base with i := 0x1000 }).fault = some .memoryOutOfRange := by decide

/-- V69 (two pixels of a row at (10, 2)), V77 and V78 (VF as a coordinate, latched and live). -/
theorem test_draw :
    (run1 0xD011 (withMem (withRegs { base with i := 0x220 } [(0x0, 10), (0x1, 2)]) [(0x220, 0xC0)])).disp
      = [(138, 0xFF), (139, 0xFF)] := by decide
theorem test_draw_vf_coordinate :
    (run1 0xDF11 (withMem (withRegs { base with i := 0x222 } [(0xF, 5)]) [(0x222, 0x80)])).disp = [(5, 0xFF)] ∧
    (run1 0xDF11 (withMem (withRegs
      { base with i := 0x222, cfg := { Config.default with drawCoordLatch := .live } } [(0xF, 5)])
      [(0x222, 0x80)])).disp = [(0, 0xFF)] := by decide

/-- V81, V82, V83; V84, V86. -/
theorem test_skp :
    (run1 0xE59E (withKeys (withRegs base [(0x5, 0x07)]) [7])).pc = 0x204 ∧
    (run1 0xE59E (withRegs base [(0x5, 0x07)])).pc = 0x202 ∧
    (run1 0xE59E (withRegs base [(0x5, 0x10)])).fault = some .keyIndexOutOfRange := by decide
theorem test_sknp :
    (run1 0xE5A1 (withRegs base [(0x5, 0x07)])).pc = 0x204 ∧
    (run1 0xE5A1 (withRegs { base with st := 1 } [(0x5, 0x10)])).fault = some .keyIndexOutOfRange ∧
    (run1 0xE5A1 (withRegs { base with st := 1 } [(0x5, 0x10)])).st = 1 := by decide

/-- V87; W10; V89; V91, V92. -/
theorem test_ld_vx_dt :
    (run1 0xF507 { base with dt := 0x20 }).reg 0x5 = 0x20 ∧ (run1 0xF507 { base with dt := 0x20 }).dt = 0x1F := by
  decide
theorem test_wait_key_takes : (run1 0xF20A (withKeys base [9, 3])).reg 0x2 = 0x03 := by decide
theorem test_wait_key_waits :
    (run1 0xF20A { base with dt := 5 }).pc = 0x200 ∧ (run1 0xF20A { base with dt := 5 }).dt = 4 := by decide
theorem test_ld_dt : (run1 0xF015 (withRegs base [(0x0, 5)])).dt = 4 := by decide
theorem test_ld_st :
    (run1 0xF018 (withRegs base [(0x0, 1)])).beep = true ∧ (run1 0xF018 (withRegs base [(0x0, 2)])).beep = false ∧
    (run1 0xF018 (withRegs base [(0x0, 2)])).st = 1 := by decide

/-- V96 and the vectors after it: the no-ops. -/
theorem test_nops :
    [0x0123, 0x8AB8, 0xE0FF, 0xF0FF].all (fun w =>
      (run1 w { base with dt := 2 }).pc == 0x202 && (run1 w { base with dt := 2 }).dt == 1) := by decide

/-! ## Witnesses: for each obligation with hypotheses, a state and operands that meet them, clause by clause -/

/-- The base state with a word to fetch at `pc`. -/
def fetching (pc : Word) (w : Nat) (s : State) : State := { s with pc := pc }.withFetchWord 16 w

theorem witness_DecodeOfEncodeIsIdentity : (Instr.nop0 0x0E1).wf = true ∧ (Instr.drw 0xF 0xF 0xF).wf = true := by
  decide

theorem witness_EveryWordEncodesExactlyOneInstruction :
    (Instr.jp 0xFFF).wf = true ∧ encode (.jp 0xFFF) = 0x1FFF := by decide

/-- A completing step at 0xFFE, the last address fetched from, and a faulting one. -/
theorem witness_StepRunsTheDecodedInstruction :
    (∃ s t, s.fault = none ∧ s.pc.toNat ≤ 0xFFE ∧ decode (BitVec.ofNat 16 ((s.readByte s.pc.toNat).toNat * 256 +
      (s.readByte (s.pc.toNat + 1)).toNat)) = .call 0x210 ∧ exec (.call 0x210) s = .next t ∧ t.fault = none) ∧
    ∃ s t k, s.fault = none ∧ s.pc.toNat ≤ 0xFFE ∧ decode (BitVec.ofNat 16 ((s.readByte s.pc.toNat).toNat * 256 +
      (s.readByte (s.pc.toNat + 1)).toNat)) = .ret ∧ exec .ret s = .next t ∧ t.fault = some k :=
  ⟨⟨fetching 0xFFE 0x2210 base, _, by decide, by decide, by decide, rfl, by decide⟩,
    fetching 0x200 0x00EE base, _, .stackUnderflow, by decide, by decide, by decide, rfl, rfl⟩

theorem witness_TimersCountOncePerCompletedStep :
    ∃ s t u, s.runs (.ldDtVx 0x0) ∧ exec (.ldDtVx 0x0) s = .next t ∧ step s = .next u ∧ u.fault = none :=
  ⟨fetching 0x200 0xF015 base, _, _, ⟨by decide, by decide, by decide⟩, rfl, rfl, by decide⟩

/-- ST at 1 beeps, ST at 2 does not. -/
theorem witness_BeepExactlyWhenSoundTimerGoesFromOne :
    (∃ u, step (fetching 0x200 0x1200 { base with st := 1 }) = .next u ∧ u.beep = true) ∧
    ∃ u, step (fetching 0x200 0x1200 { base with st := 2 }) = .next u ∧ u.beep = false :=
  ⟨⟨_, rfl, by decide⟩, _, rfl, by decide⟩

/-- A run of one completed step, of an instruction that writes no timer, with the beep at its end. -/
theorem witness_UnwrittenTimersCountTheSteps :
    ∃ run : Nat → State, (∀ m < 1, step (run m) = .next (run (m + 1)) ∧ (run (m + 1)).fault = none) ∧
      (∀ m < 1, ∀ x, decode (run m).opcodeAtPc ≠ .ldDtVx x) ∧
      (∀ m < 1, ∀ x, decode (run m).opcodeAtPc ≠ .ldStVx x) ∧ (run 1).beep = true := by
  refine ⟨fun m => if m = 0 then fetching 0x200 0x1200 { base with st := 1 } else run1 0x1200 { base with st := 1 },
    fun m hm => ?_, fun m hm => ?_, fun m hm => ?_, by decide⟩ <;>
    (obtain rfl : m = 0 := by omega)
  · exact ⟨rfl, by decide⟩
  · decide
  · decide

/-- Each kind of fault at the first value that raises it, and a step at the last value that does not. -/
theorem witness_FaultsAreRaisedExactlyWhenListed :
    (run1 0x0000 { base with pc := 0xFFF }).fault = some .fetchOutOfRange ∧
    (run1 0x0000 { base with pc := 0xFFE }).fault = none ∧
    (run1 0x2210 { base with sp := 16 }).fault = some .stackOverflow ∧
    (run1 0x2210 { base with sp := 15 }).fault = none ∧
    (run1 0x00EE { base with sp := 0 }).fault = some .stackUnderflow ∧
    (run1 0x00EE { base with sp := 1 }).fault = none ∧
    (run1 0xF033 { base with i := 0xFFE }).fault = some .memoryOutOfRange ∧
    (run1 0xF033 { base with i := 0xFFD }).fault = none ∧
    (run1 0xE09E (withRegs base [(0x0, 0x10)])).fault = some .keyIndexOutOfRange ∧
    (run1 0xE09E (withRegs base [(0x0, 0x0F)])).fault = none := by decide

theorem witness_FaultingStepIsDiscarded :
    ∃ s u k, s.fault = none ∧ step s = .next u ∧ u.fault = some k :=
  ⟨fetching 0x200 0x00EE base, _, .stackUnderflow, by decide, rfl, by decide⟩

/-- A faulted machine, each host operation on it, and buffers of the least and the greatest length Load takes. -/
theorem witness_FaultedMachineIsStuckUntilReset :
    (∀ o, ∃ r t, hostOp o { base with fault := some .stackOverflow } = .next (r, t)) ∧
    ([0x00] : List Byte) ≠ [] ∧ ([0x00] : List Byte).length ≤ base.cfg.loadCap ∧
    (List.replicate 3232 (0x01 : Byte)).length ≤ base.cfg.loadCap :=
  ⟨fun o => by cases o <;> exact ⟨_, _, rfl⟩, by decide, by decide,
    by rw [List.length_replicate]; decide⟩

/-- One instruction of each arm, for a skip both where it skips and where it does not, completes. -/
theorem witness_ProgramCounterAfterEachInstruction :
    [(0x1204, .jp 0x204), (0x2210, .call 0x210), (0xB300, .jpV0 0x300), (0x00EE, .ret), (0x3000, .seByte 0x0 0x00),
      (0x3001, .seByte 0x0 0x01), (0x4000, .sneByte 0x0 0x00), (0x4001, .sneByte 0x0 0x01), (0x5010, .seReg 0x0 0x1 0x0),
      (0x5020, .seReg 0x0 0x2 0x0), (0x9010, .sneReg 0x0 0x1 0x0), (0x9020, .sneReg 0x0 0x2 0x0), (0xE09E, .skp 0x0),
      (0xE29E, .skp 0x2), (0xE0A1, .sknp 0x0), (0xE2A1, .sknp 0x2), (0xF00A, .ldVxK 0x0), (0xF133, .ldB 0x1)].all
      (fun (p : Nat × Instr) =>
        let s := fetching 0x200 p.1 (withKeys (withRegs { base with sp := 1 } [(0x2, 0x07)]) [7])
        decide (s.fault = none ∧ s.pc.toNat ≤ 0xFFE ∧ decode s.opcodeAtPc = p.2) &&
          (nextOf (step s)).any (fun u => u.fault = none)) = true ∧
    (nextOf (step (fetching 0x200 0xF00A base))).any (fun u => u.fault = none ∧ u.pc = 0x200) = true := by decide

/-- Return: the empty stack, and the depths 1 and 16. -/
theorem witness_ReturnPopsTheStackOrFaults :
    ({ base with sp := 0 } : State).sp.val = 0 ∧ ({ base with sp := 1 } : State).sp.val = (0 : Fin 16).val + 1 ∧
    ({ base with sp := 16 } : State).sp.val = (15 : Fin 16).val + 1 := by decide

/-- Call: the full stack, and the depths 0 and 15. -/
theorem witness_CallPushesTheNextAddressOrFaults :
    ({ base with sp := 16 } : State).sp.val = 16 ∧ ({ base with sp := 0 } : State).sp.val = (0 : Fin 16).val ∧
    ({ base with sp := 15 } : State).sp.val = (15 : Fin 16).val := by decide

theorem witness_CallThenReturnResumesAfterTheCall :
    ({ base with sp := 0 } : State).sp.val = (0 : Fin 16).val ∧
    ({ base with sp := 15 } : State).sp.val = (15 : Fin 16).val := by decide

/-- A sum of 255 and one of 256. -/
theorem witness_AddRegistersSetsTheCarryFirst :
    (0 = bit (((withRegs base [(0x0, 254), (0x1, 1)]).reg 0x0).toNat +
      ((withRegs base [(0x0, 254), (0x1, 1)]).reg 0x1).toNat > 255)) ∧
    1 = bit (((withRegs base [(0x0, 255), (0x1, 1)]).reg 0x0).toNat +
      ((withRegs base [(0x0, 255), (0x1, 1)]).reg 0x1).toNat > 255) := by decide

/-- Equal operands, and a borrow one way. -/
theorem witness_SubtractionsSetTheNotBorrowFirst :
    (1 = bit ((base.reg 0x1).toNat ≤ (base.reg 0x0).toNat) ∧ 1 = bit ((base.reg 0x0).toNat ≤ (base.reg 0x1).toNat)) ∧
    0 = bit (((withRegs base [(0x1, 1)]).reg 0x1).toNat ≤ ((withRegs base [(0x1, 1)]).reg 0x0).toNat) ∧
    1 = bit (((withRegs base [(0x1, 1)]).reg 0x0).toNat ≤ ((withRegs base [(0x1, 1)]).reg 0x1).toNat) := by decide

theorem witness_FlagInstructionsOnVfAsTabulated :
    (0x0 : Reg) ≠ 0xF ∧ 255 = ((withRegs base [(0xF, 255), (0x0, 1)]).reg 0xF).toNat ∧
    1 = ((withRegs base [(0xF, 255), (0x0, 1)]).reg 0x0).toNat := by decide

/-- With a byte handed over, and with none. -/
theorem witness_RandomByteIsMaskedByTheImmediate :
    ({ base with rndIn := [0xA7, 0x01] } : State).rndIn = 0xA7 :: [0x01] ∧ base.rndIn = [] := by decide

theorem witness_OnlyRandomReadsTheRandomInput :
    (∀ x nn, Instr.cls ≠ .rnd x nn) ∧ ∃ t, exec .cls base = .next t := ⟨by decide, _, rfl⟩

/-- The last I that FX33 stores at, and the first that faults. -/
theorem witness_DecimalDigitsAreStored :
    ({ base with i := 0xFFE } : State).i.toNat + 2 > 0xFFF ∧ ({ base with i := 0xFFD } : State).i.toNat + 2 ≤ 0xFFF := by
  decide

/-- The last I at which FX55 and FX65 with X = F transfer, and the first that faults. -/
theorem witness_RegistersAreStoredThroughX :
    ({ base with i := 0xFF1 } : State).i.toNat + (0xF : Reg).val > 0xFFF ∧
    ({ base with i := 0xFF0 } : State).i.toNat + (0xF : Reg).val ≤ 0xFFF := by decide

theorem witness_RegistersAreLoadedThroughX :
    ({ base with i := 0x1000 } : State).i.toNat + (0x0 : Reg).val > 0xFFF ∧
    ({ base with i := 0xFFF } : State).i.toNat + (0x0 : Reg).val ≤ 0xFFF := by decide

/-- The state FX55 leaves with X = `x` from `s`. -/
def stored (x : Reg) (s : State) : State := (nextOf (exec (.storeRegs x) s)).getD s

/-- The load from the state the store left, with its registers cleared. -/
theorem witness_StoreThenLoadRestoresTheRegisters :
    ∃ s t u : State, s.i.toNat + (0xF : Reg).val ≤ 0xFFF ∧ exec (.storeRegs 0xF) s = .next t ∧ u.i = s.i ∧
      (∀ a, u.readByte a = t.readByte a) ∧ u.reg 0x0 ≠ s.reg 0x0 :=
  ⟨withRegs { base with i := 0xFF0 } [(0x0, 0x11)], stored 0xF (withRegs { base with i := 0xFF0 } [(0x0, 0x11)]),
    { stored 0xF (withRegs { base with i := 0xFF0 } [(0x0, 0x11)]) with v := Vector.replicate 16 0 },
    by decide, rfl, by decide, fun _ => rfl, by decide⟩

theorem witness_StoredBytesAreFetchedAsAnOpcode :
    ∃ s t u : State, s.i.toNat + (0x1 : Reg).val ≤ 0xFFF ∧ (0x1 : Reg).val = (0x0 : Reg).val + 1 ∧
      (0x1 : Reg) ≤ 0x1 ∧ exec (.storeRegs 0x1) s = .next t ∧ (∀ a, u.readByte a = t.readByte a) ∧
      u.pc.toNat = s.i.toNat + (0x0 : Reg).val :=
  ⟨{ base with i := 0xFFE }, stored 0x1 { base with i := 0xFFE }, (stored 0x1 { base with i := 0xFFE }).setPc 0xFFE,
    by decide, by decide, by decide, rfl, fun _ => rfl, by decide⟩

/-- Each memory instruction on both sides of its bound, and DXYN with N = 0. -/
theorem witness_MemoryInstructionsCheckTheirHighestAddress :
    (maxOffset (.ldB 0x0) = some 2 ∧ 0xFFE + 2 > 0xFFF ∧ 0xFFD + 2 ≤ 0xFFF) ∧
    (maxOffset (.storeRegs 0xF) = some 15 ∧ 0xFF1 + 15 > 0xFFF ∧ 0xFF0 + 15 ≤ 0xFFF) ∧
    (maxOffset (.loadRegs 0x0) = some 0 ∧ 0x1000 + 0 > 0xFFF ∧ 0xFFF + 0 ≤ 0xFFF) ∧
    (maxOffset (.drw 0x0 0x1 2) = some 1 ∧ 0xFFF + 1 > 0xFFF ∧ 0xFFE + 1 ≤ 0xFFF) ∧
    maxOffset (.drw 0x0 0x1 0) = none := by decide

/-- A state whose sprite row at I draws its leftmost pixel on one that is set. -/
def drawState (latch : CoordLatch) : State :=
  withMem { base with i := 0xFFF, cfg := { Config.default with drawCoordLatch := latch }, disp := [(0, 0xFF)] }
    [(0xFFF, 0xC0)]

/-- Latched, with N = 0 at an I above memory, and with the last N that I admits, which strikes. -/
theorem witness_LatchedDrawTogglesExactlyTheSpritePixels :
    (base.cfg.drawCoordLatch = .latched ∧ (0 : Nibble).toNat = 0) ∧
    ((drawState .latched).cfg.drawCoordLatch = .latched ∧
      (drawState .latched).i.toNat + ((1 : Nibble).toNat - 1) ≤ 0xFFF ∧
      (drawState .latched).spriteBit 0 0 = true ∧ (drawState .latched).pixel (spriteIndex 0 0 0 0) ≠ 0x00) := by
  decide

/-- Live, with VF as a coordinate, where the second bit is drawn after the first one struck. -/
theorem witness_LiveDrawReadsVfAsItChanges :
    (drawState .live).cfg.drawCoordLatch = .live ∧ (drawState .live).i.toNat + ((1 : Nibble).toNat - 1) ≤ 0xFFF ∧
    (drawState .live).struckBefore 0xF 0x0 0 1 ∧ ¬ (drawState .live).struckBefore 0xF 0x0 0 0 ∧
    ∃ c : Nat → Nat → Nat, (∀ i j, (drawState .live).struckBefore 0xF 0x0 i j → c i j = 1) ∧
      ∀ i j, ¬ (drawState .live).struckBefore 0xF 0x0 i j → c i j = 0 := by
  classical
  refine ⟨by decide, by decide, ⟨0, 0, by decide, by decide, by unfold State.liveStrikes; decide⟩, ?_,
    fun i j => if (drawState .live).struckBefore 0xF 0x0 i j then 1 else 0, fun i j h => if_pos h,
    fun i j h => if_neg h⟩
  rintro ⟨i, j, _, h | ⟨_, h⟩, _⟩ <;> omega

/-- The first draw lights the pixel beside the one it strikes. -/
theorem witness_DrawingTwiceRestoresTheDisplay :
    (0x0 : Reg) ≠ 0xF ∧ (drawState .latched).i.toNat + ((1 : Nibble).toNat - 1) ≤ 0xFFF ∧
    (∃ i < (1 : Nibble).toNat, ∃ j < 8, (drawState .latched).spriteBit i j = true ∧
      (drawState .latched).pixel (spriteIndex ((drawState .latched).reg 0x0).toNat
        ((drawState .latched).reg 0x0).toNat i j) = 0x00) :=
  ⟨by decide, by decide, 0, by decide, 1, by decide, by decide, by decide⟩

/-- DRW with N = 0, an instruction that leaves DRAW, and one that faults. -/
theorem witness_DrawFlagIsSetByExactlyTheDisplayInstructions :
    base.fault = none ∧ (nextOf (exec (.drw 0x0 0x0 0) base)).any (fun t => t.fault = none) ∧
    (nextOf (exec (.jp 0x200) base)).any (fun t => t.fault = none) ∧
    (nextOf (exec .ret base)).any (fun t => t.fault ≠ none) := by decide

/-- The first key number that faults, and the keys 0 and F. -/
theorem witness_KeySkipsTestTheKeyLevelOrFault :
    ((withRegs base [(0x5, 0x10)]).reg 0x5).toNat > 0xF ∧
    ((withRegs base [(0x5, 0x0F)]).reg 0x5).toNat = (0xF : Fin 16).val ∧
    (base.reg 0x5).toNat = (0x0 : Fin 16).val := by decide

theorem witness_TimerTransfersAndTheirOwnStep :
    (fetching 0x200 0xF507 base).runs (.ldVxDt 0x5) ∧ (fetching 0x200 0xF015 base).runs (.ldDtVx 0x0) ∧
    (fetching 0xFFE 0xF018 base).runs (.ldStVx 0x0) := by
  refine ⟨⟨?_, ?_, ?_⟩, ⟨?_, ?_, ?_⟩, ?_, ?_, ?_⟩ <;> decide

/-- The keys 0 and F as the lowest, and a waiting step. -/
theorem witness_WaitForKeyTakesTheLowestKeyOrWaits :
    ((withKeys base [0, 15]).key[(0 : Fin 16)] = true ∧ ∀ j : Fin 16, j < 0 → (withKeys base [0, 15]).key[j] = false) ∧
    ((withKeys base [15]).key[(15 : Fin 16)] = true ∧ ∀ j : Fin 16, j < 15 → (withKeys base [15]).key[j] = false) ∧
    (∀ k : Fin 16, (fetching 0x200 0xF20A base).key[k] = false) ∧ (fetching 0x200 0xF20A base).runs (.ldVxK 0x2) := by
  refine ⟨by decide, by decide, by decide, ?_, ?_, ?_⟩ <;> decide

theorem witness_UnmappedWordsAreNoOps :
    (fetching 0x200 0x0123 base).runs (.nop0 0x123) ∧ (fetching 0x200 0x8AB8 base).runs (.nop8 0xA 0xB 0x8) ∧
    (fetching 0x200 0xE0FF base).runs (.nopE 0x0 0xFF) ∧ (fetching 0x200 0xF0FF base).runs (.nopF 0x0 0xFF) := by
  refine ⟨⟨?_, ?_, ?_⟩, ⟨?_, ?_, ?_⟩, ⟨?_, ?_, ?_⟩, ?_, ?_, ?_⟩ <;> decide

theorem witness_RegistersChangeOnlyAsTheAccessTableSays :
    (∃ t, exec (.loadRegs 0x3) base = .next t) ∧ ¬ writesReg (.loadRegs 0x3) 0x4 := ⟨⟨_, rfl⟩, by unfold writesReg; decide⟩

/-- Each piece changes in some writer of it. -/
theorem witness_EachPieceChangesOnlyInItsWriters :
    (nextOf (exec (.ldI 0x300) base)).any (fun t => t.i ≠ base.i) ∧
    (nextOf (exec (.call 0x300) base)).any (fun t => t.sp ≠ base.sp ∧ t.stack[(0 : Fin 16)] ≠ base.stack[(0 : Fin 16)]) ∧
    (nextOf (exec (.ldDtVx 0x0) State.reset)).any (fun t => t.dt ≠ State.reset.dt) ∧
    (nextOf (exec (.ldStVx 0x0) State.reset)).any (fun t => t.st ≠ State.reset.st) ∧
    (nextOf (exec (.ldB 0x0) base)).any (fun t => t.readByte 0x000 ≠ base.readByte 0x000) ∧
    (nextOf (exec .cls (drawState .latched))).any (fun t => t.pixel 0 ≠ (drawState .latched).pixel 0) := by decide

theorem witness_ResetMeetsTheInvariant : Config.default.wf = true := by decide

/-- The invariant holds of a state with a written byte, a set pixel and the bounds of PC and STACK met. -/
theorem witness_EveryStepKeepsTheInvariant :
    ∃ s t : State, s.Inv ∧ s.mem ≠ [] ∧ s.disp ≠ [] ∧ step s = .next t := by
  refine ⟨{ fetching 0x200 0x1200 base with disp := [(0, 0xFF)], stack := base.stack.set 0 0x1000, pc := 0x10FE }, _,
    ⟨by decide, by decide, by decide, fun k => ?_, by decide, by decide⟩, by decide, by decide, rfl⟩
  by_cases h : k = 0 <;> simp [State.pixel, Cells.read, h]

/-- A run from Reset that loads the word F055, writes keys and takes a Step: it leaves a loaded byte in memory. -/
theorem witness_EveryReachableStateMeetsTheInvariant : ∃ s : State, Reachable s ∧ s.mem ≠ [] ∧ s.pc = 0x202 := by
  refine ⟨_, ⟨Config.default, [.reset, .load [0xF0, 0x55], .writeKeys (Vector.replicate 16 true), .step 0xA7], _,
    by decide, rfl⟩, by decide, by decide⟩

/-- Load: the empty buffer, one byte, LOAD_CAP bytes and one more. -/
theorem witness_LoadCopiesAllOrNothing :
    ([] : List Byte).length = 0 ∧ (0 < ([0x00] : List Byte).length ∧ ([0x00] : List Byte).length ≤ base.cfg.loadCap) ∧
    (List.replicate 3232 (0x01 : Byte)).length ≤ base.cfg.loadCap ∧
    (List.replicate 3233 (0x01 : Byte)).length > base.cfg.loadCap := by
  refine ⟨rfl, by decide, ?_, ?_⟩ <;> rw [List.length_replicate] <;> decide

/-- The corners of the display, a state that meets the invariant, and an operation that is no Step. -/
theorem witness_HostReadsTheDisplayAndTheDrawFlag :
    ((0 < 64 ∧ 0 < 32) ∧ 63 < 64 ∧ 31 < 32) ∧ State.reset.Inv ∧
    ∃ s r t, hostOp .readFault s = .next (r, t) ∧ (∀ rnd, HostOp.readFault ≠ .step rnd) ∧ t.draw = true :=
  ⟨by decide, ⟨by decide, rfl, rfl, fun _ => .inl rfl, by decide, by decide⟩, { base with draw := true }, _, _, rfl,
    nofun, rfl⟩

theorem witness_KeysAreWrittenByTheHostAlone :
    (∃ r t, hostOp (.load [0x00]) (withKeys base [7]) = .next (r, t)) ∧ HostOp.load [0x00] ≠ .reset ∧
    (∀ k, HostOp.load [0x00] ≠ .writeKeys k) ∧ ∃ t, step (withKeys base [7]) = .next t :=
  ⟨⟨_, _, rfl⟩, nofun, nofun, _, rfl⟩

/-- A Load that writes memory, and a Step, from a state that meets the invariant. -/
theorem witness_EveryHostOperationKeepsTheInvariant :
    State.reset.Inv ∧ (∃ r t, hostOp (.load [0x12, 0x04]) State.reset = .next (r, t) ∧ t.mem ≠ []) ∧
    ∃ r t, hostOp (.step 0xA7) State.reset = .next (r, t) ∧ t.pc = 0x202 :=
  ⟨⟨by decide, rfl, rfl, fun _ => .inl rfl, by decide, by decide⟩, ⟨_, _, rfl, by decide⟩, _, _, rfl, by decide⟩

end Sys2Proof.Tests
end

section
/-! SUPPORT. Control transfer (40_control_flow.md): the jump and the skips on a register and a byte, as words, as next
states and with their frames. -/

namespace Sys2Proof.Machine

/-! ## The words (R82, R84) -/

/-- The low byte of the word `f x nn` is the byte it was written with (R81, R82). -/
theorem nnOf_wordXK_byte {f : Nat} (hf : f < 16) (x : Reg) (nn : Byte) : nnOf (wordXK f x nn.toNat) = nn := by
  rw [nnOf_wordXK x hf nn.isLt, BitVec.ofNat_toNat, BitVec.setWidth_eq]

/-- The word 1NNN is the jump to NNN (R113). -/
theorem decode_wordA_jp (nnn : Addr) : decode (wordA 0x1 nnn.toNat) = .jp nnn := by
  simp only [decode, familyOf_wordA (f := 0x1) (by decide), nnnOf_wordA (f := 0x1) (by decide)]

/-- The word 3XNN is the skip on V[X] = NN (R115). -/
theorem decode_wordXK_seByte (x : Reg) (nn : Byte) : decode (wordXK 0x3 x nn.toNat) = .seByte x nn := by
  simp only [decode, familyOf_wordXK x (f := 0x3) (by decide) nn.isLt, xOf_wordXK x (f := 0x3) (by decide) nn.isLt,
    nnOf_wordXK_byte (f := 0x3) (by decide)]

/-- The word 4XNN is the skip on V[X] ≠ NN (R116). -/
theorem decode_wordXK_sneByte (x : Reg) (nn : Byte) : decode (wordXK 0x4 x nn.toNat) = .sneByte x nn := by
  simp only [decode, familyOf_wordXK x (f := 0x4) (by decide) nn.isLt, xOf_wordXK x (f := 0x4) (by decide) nn.isLt,
    nnOf_wordXK_byte (f := 0x4) (by decide)]

/-! ## The next states -/

theorem exec_jp (nnn : Addr) (s : State) : exec (.jp nnn) s = .next (s.advance.setPc (zextAddr nnn)) :=
  rfl

theorem exec_seByte (x : Reg) (nn : Byte) (s : State) :
    exec (.seByte x nn) s = .next (s.advance.skipIf (s.reg x == nn)) :=
  rfl

theorem exec_sneByte (x : Reg) (nn : Byte) (s : State) :
    exec (.sneByte x nn) s = .next (s.advance.skipIf (s.reg x != nn)) :=
  rfl

/-! ## PC and the frame -/

/-- A skip counts from the opcode's own address: PC moves by 4 where its condition holds, else by 2 (R90, R110). -/
theorem State.skipIf_advance_pc (s : State) (c : Bool) :
    (s.advance.skipIf c).pc = s.pc + if c then 4 else 2 := by
  cases c
  · rfl
  · exact BitVec.add_assoc s.pc 2 2

theorem onlyChanges_advance_setPc (s : State) (v : Word) :
    OnlyChanges (fun p => p = .pc) s (s.advance.setPc v) :=
  (onlyChanges_advance s).trans (onlyChanges_setPc _ v)

theorem onlyChanges_advance_skipIf (s : State) (c : Bool) :
    OnlyChanges (fun p => p = .pc) s (s.advance.skipIf c) :=
  (onlyChanges_advance s).trans (onlyChanges_skipIf _ c)

/-! ## The statements -/

/-- Settles O19: the jump's next state is named by `exec_jp`, and NNN keeps its value in 16 bits. -/
theorem jumpLoadsTheProgramCounter : Obligations.JumpLoadsTheProgramCounter := by
  intro nnn s
  have hpc : (zextAddr nnn).toNat = nnn.toNat := BitVec.toNat_setWidth_of_le (by decide)
  exact ⟨decode_wordA_jp nnn, _, exec_jp nnn s, hpc, onlyChanges_advance_setPc s _⟩

/-- Settles O21: each skip's next state is a `skipIf` after the advance, on the two bytes equal or not equal. -/
theorem skipsCompareARegisterWithAByte : Obligations.SkipsCompareARegisterWithAByte := by
  intro x nn s
  refine ⟨decode_wordXK_seByte x nn, decode_wordXK_sneByte x nn,
    ⟨_, exec_seByte x nn s, ?_, onlyChanges_advance_skipIf s _⟩,
    _, exec_sneByte x nn s, ?_, onlyChanges_advance_skipIf s _⟩
  · simp only [State.skipIf_advance_pc, beq_iff_eq, BitVec.toNat_inj]
  · simp only [State.skipIf_advance_pc, bne_iff_ne, BitVec.toNat_inj, ne_eq, ite_not]

end Sys2Proof.Machine
end

section
/-! SUPPORT. Register loads, logic and the byte addition (41_alu.md): the instructions that write V[X] and no flag, as
words, as next states and with their frame. -/

namespace Sys2Proof.Machine

/-! ## The words (R82, R84) -/

/-- The word 6XNN is the load of a byte (R140). -/
theorem decode_wordXK_ldByte (x : Reg) (nn : Byte) : decode (wordXK 0x6 x nn.toNat) = .ldByte x nn := by
  simp only [decode, familyOf_wordXK x (f := 0x6) (by decide) nn.isLt, xOf_wordXK x (f := 0x6) (by decide) nn.isLt,
    nnOf_wordXK_byte (f := 0x6) (by decide)]

/-- The word 7XNN is the addition of a byte (R141). -/
theorem decode_wordXK_addByte (x : Reg) (nn : Byte) : decode (wordXK 0x7 x nn.toNat) = .addByte x nn := by
  simp only [decode, familyOf_wordXK x (f := 0x7) (by decide) nn.isLt, xOf_wordXK x (f := 0x7) (by decide) nn.isLt,
    nnOf_wordXK_byte (f := 0x7) (by decide)]

/-- The word 8XYn is what family 8 selects by n (R87). -/
theorem decode_word4_family8 (x y : Reg) {n : Nat} (hn : n < 16) :
    decode (word4 0x8 x y n) = decodeFamily8 x y (BitVec.ofNat 4 n) := by
  simp only [decode, familyOf_word4 x y (f := 0x8) (by decide) hn, xOf_word4 x y (f := 0x8) (by decide) hn,
    yOf_word4 x y (f := 0x8) (by decide) hn, nOf_word4 x y (f := 0x8) (by decide) hn]

/-! ## The next states -/

theorem exec_ldByte (x : Reg) (nn : Byte) (s : State) : exec (.ldByte x nn) s = .next (s.advance.setReg x nn) :=
  rfl

theorem exec_addByte (x : Reg) (nn : Byte) (s : State) :
    exec (.addByte x nn) s = .next (s.advance.setReg x (s.reg x + nn)) :=
  rfl

theorem exec_ldReg (x y : Reg) (s : State) : exec (.ldReg x y) s = .next (s.advance.setReg x (s.reg y)) :=
  rfl

theorem exec_orReg (x y : Reg) (s : State) :
    exec (.orReg x y) s = .next (s.advance.setReg x (s.reg x ||| s.reg y)) :=
  rfl

theorem exec_andReg (x y : Reg) (s : State) :
    exec (.andReg x y) s = .next (s.advance.setReg x (s.reg x &&& s.reg y)) :=
  rfl

theorem exec_xorReg (x y : Reg) (s : State) :
    exec (.xorReg x y) s = .next (s.advance.setReg x (s.reg x ^^^ s.reg y)) :=
  rfl

/-! ## The write of one register and its frame -/

theorem onlyChanges_advance_setReg (s : State) (x : Reg) (b : Byte) :
    OnlyChanges (fun p => p = .reg x ∨ p = .pc) s (s.advance.setReg x b) :=
  ((onlyChanges_advance s).mono fun _ => .inr).trans ((onlyChanges_setReg _ x b).mono fun _ => .inl)

/-- An instruction whose next state is one register write after the advance writes that register and PC, and so no flag
where the register is not VF (R21, R23). -/
theorem exec_setReg_spec {i : Instr} {s : State} {x : Reg} {b : Byte}
    (h : exec i s = .next (s.advance.setReg x b)) :
    ∃ t, exec i s = .next t ∧ t.reg x = b ∧ t.pc = s.pc + 2 ∧ OnlyChanges (fun p => p = .reg x ∨ p = .pc) s t :=
  ⟨_, h, State.reg_setReg_same .., rfl, onlyChanges_advance_setReg s x b⟩

/-! ## The statements -/

/-- Settles O23: each next state is one register write after the advance, so `exec_setReg_spec` gives its effect. -/
theorem loadsAndLogicWriteOnlyTheirRegister : Obligations.LoadsAndLogicWriteOnlyTheirRegister := by
  intro x y nn s
  exact ⟨⟨decode_wordXK_ldByte x nn, exec_setReg_spec (exec_ldByte x nn s)⟩,
    ⟨decode_word4_family8 x y (by decide), exec_setReg_spec (exec_ldReg x y s)⟩,
    ⟨decode_word4_family8 x y (by decide), exec_setReg_spec (exec_orReg x y s)⟩,
    ⟨decode_word4_family8 x y (by decide), exec_setReg_spec (exec_andReg x y s)⟩,
    decode_word4_family8 x y (by decide), exec_setReg_spec (exec_xorReg x y s)⟩

/-- Settles O24: the sum of two bytes as bit vectors is the sum of their values modulo 256. -/
theorem addByteWrapsWithoutAFlag : Obligations.AddByteWrapsWithoutAFlag := by
  intro x nn s
  obtain ⟨t, hexec, hreg, hpc, hframe⟩ := exec_setReg_spec (exec_addByte x nn s)
  have hsum : (t.reg x).toNat = ((s.reg x).toNat + nn.toNat) % 256 := by rw [hreg, BitVec.toNat_add]
  exact ⟨decode_wordXK_addByte x nn, t, hexec, hsum, hpc, hframe⟩

end Sys2Proof.Machine
end

section
/-! SUPPORT. The index register (42_index_memory.md, section 1): the three instructions that write I and no flag, as
words, as next states and with their frame. -/

namespace Sys2Proof.Machine

/-! ## The words (R82, R84) -/

/-- The word ANNN is the load of I (R170). -/
theorem decode_wordA_ldI (nnn : Addr) : decode (wordA 0xA nnn.toNat) = .ldI nnn := by
  simp only [decode, familyOf_wordA (f := 0xA) (by decide), nnnOf_wordA (f := 0xA) (by decide)]

/-- The word FXnn is what family F selects by nn (R88). -/
theorem decode_wordXK_familyF (x : Reg) {n : Nat} (hn : n < 256) :
    decode (wordXK 0xF x n) = decodeFamilyF x (BitVec.ofNat 8 n) := by
  simp only [decode, familyOf_wordXK x (f := 0xF) (by decide) hn, xOf_wordXK x (f := 0xF) (by decide) hn,
    nnOf_wordXK x (f := 0xF) (by decide) hn]

/-! ## The next states -/

theorem exec_ldI (nnn : Addr) (s : State) : exec (.ldI nnn) s = .next (s.advance.setI (zextAddr nnn)) :=
  rfl

theorem exec_addI (x : Reg) (s : State) :
    exec (.addI x) s = .next (s.advance.setI (s.i + zextByte (s.reg x))) :=
  rfl

theorem exec_ldF (x : Reg) (s : State) : exec (.ldF x) s = .next (s.advance.setI (glyphAddr (s.reg x))) :=
  rfl

/-! ## The values written to I -/

theorem zextAddr_toNat (a : Addr) : (zextAddr a).toNat = a.toNat :=
  BitVec.toNat_setWidth_of_le (by decide)

theorem zextByte_toNat (b : Byte) : (zextByte b).toNat = b.toNat :=
  BitVec.toNat_setWidth_of_le (by decide)

/-- The sum of I and a byte wraps at 0x10000 (R171). -/
theorem add_zextByte_toNat (w : Word) (b : Byte) : (w + zextByte b).toNat = (w.toNat + b.toNat) % 65536 := by
  rw [BitVec.toNat_add, zextByte_toNat]

/-- A glyph's address is at most 255 * 5, so it is exact in 16 bits (R172). -/
theorem glyphAddr_toNat (b : Byte) : (glyphAddr b).toNat = b.toNat * 5 := by
  have hb : b.toNat < 256 := b.isLt
  calc (glyphAddr b).toNat = (zextByte b).toNat * 5 % 65536 := BitVec.toNat_mul ..
    _ = b.toNat * 5 % 65536 := by rw [zextByte_toNat]
    _ = b.toNat * 5 := Nat.mod_eq_of_lt (by omega)

/-! ## The write of I and its frame -/

theorem onlyChanges_advance_setI (s : State) (w : Word) :
    OnlyChanges (fun p => p = .i ∨ p = .pc) s (s.advance.setI w) :=
  ((onlyChanges_advance s).mono fun _ => .inr).trans ((onlyChanges_setI _ w).mono fun _ => .inl)

/-- An instruction whose next state is one write of I after the advance writes I and PC, and so no flag (R23). -/
theorem exec_setI_spec {i : Instr} {s : State} {w : Word} {n : Nat}
    (h : exec i s = .next (s.advance.setI w)) (hw : w.toNat = n) :
    ∃ t, exec i s = .next t ∧ t.i.toNat = n ∧ t.pc = s.pc + 2 ∧ OnlyChanges (fun p => p = .i ∨ p = .pc) s t :=
  ⟨_, h, hw, rfl, onlyChanges_advance_setI s w⟩

/-! ## The statement -/

/-- Settles O31: each next state is one write of I after the advance, so `exec_setI_spec` gives its effect from the
value written. -/
theorem indexRegisterArithmetic : Obligations.IndexRegisterArithmetic := by
  intro x nnn s
  exact ⟨⟨decode_wordA_ldI nnn, exec_setI_spec (exec_ldI nnn s) (zextAddr_toNat nnn)⟩,
    ⟨decode_wordXK_familyF x (by decide), exec_setI_spec (exec_addI x s) (add_zextByte_toNat s.i _)⟩,
    decode_wordXK_familyF x (by decide), exec_setI_spec (exec_ldF x s) (glyphAddr_toNat _)⟩

end Sys2Proof.Machine
end

section
/-! SUPPORT. Clearing the display (43_display.md, section 1): 00E0 as its next state and with its frame. -/

namespace Sys2Proof.Machine

/-! ## The next state and its frame -/

theorem exec_cls (s : State) : exec .cls s = .next (s.advance.clearDisplay.setDraw true) :=
  rfl

/-- Clearing after the advance writes PC, the pixels and DRAW (R190). -/
theorem onlyChanges_advance_clearDisplay_setDraw (s : State) (d : Bool) :
    OnlyChanges (fun p => p = .pc ∨ p = .draw ∨ ∃ k, p = .pixel k) s (s.advance.clearDisplay.setDraw d) :=
  (((onlyChanges_advance s).mono fun _ => .inl).trans
    ((onlyChanges_clearDisplay _).mono fun _ h => .inr (.inr h))).trans
      ((onlyChanges_setDraw _ d).mono fun _ h => .inr (.inl h))

/-! ## The statement -/

/-- Settles O38: the next state is the advanced one with an empty display, which reads 0 at every pixel, and DRAW set
whatever the display held. -/
theorem clearDisplayZeroesEveryPixel : Obligations.ClearDisplayZeroesEveryPixel := by
  have hdecode : decode 0x00E0 = .cls := by decide
  have hpixel (s : State) (k : Nat) : (s.advance.clearDisplay.setDraw true).pixel k = 0x00 := by
    rw [State.pixel_congr (State.setDraw_disp ..), State.pixel_clearDisplay]
  exact ⟨hdecode, fun s =>
    ⟨_, exec_cls s, hpixel s, rfl, rfl, onlyChanges_advance_clearDisplay_setDraw s true⟩⟩

end Sys2Proof.Machine
end

section
/-! SUPPORT. The timer phase and the beep (44_timers_keypad.md, section 3), and the wait for a key (section 2): the end
of a step by the outcome of its execute phase, FX0A as its next state with and without a pressed key. -/

namespace Sys2Proof.Machine

/-! ## The end of a step (R89, R220, R221) -/

/-- A count toward 0 is subtraction on numbers, which stops at 0 (R220). -/
theorem countDown_toNat (b : Byte) : (countDown b).toNat = b.toNat - 1 := by
  unfold countDown
  split
  · next h => rw [h]; rfl
  · next h =>
    have hpos : b.toNat ≠ 0 := fun e => h (BitVec.eq_of_toNat_eq e)
    exact BitVec.toNat_sub_of_le (BitVec.le_def.mpr (show 1 ≤ b.toNat by omega))

theorem State.endStep_completed {t : State} (h : t.fault = none) : t.endStep = t.timerPhase.takeInput := by
  unfold State.endStep; rw [h]

theorem State.endStep_faulted {t : State} {k : Fault} (h : t.fault = some k) : t.endStep = t.takeInput := by
  unfold State.endStep; rw [h]

@[simp] theorem State.endStep_fault (t : State) : t.endStep.fault = t.fault := by
  cases h : t.fault with
  | none => rw [State.endStep_completed h]; exact h
  | some k => rw [State.endStep_faulted h]; exact h

@[simp] theorem State.endStep_pc (t : State) : t.endStep.pc = t.pc := by
  cases h : t.fault with
  | none => rw [State.endStep_completed h]; rfl
  | some k => rw [State.endStep_faulted h]; rfl

/-- After a completed execute phase both timers count once, and the beep fires exactly where ST is 1 (R220, R221). -/
theorem State.endStep_counts {t : State} (h : t.fault = none) :
    t.endStep.dt.toNat = t.dt.toNat - 1 ∧ t.endStep.st.toNat = t.st.toNat - 1 ∧
      (t.endStep.beep = true ↔ t.st = 1) := by
  rw [State.endStep_completed h]
  exact ⟨countDown_toNat t.dt, countDown_toNat t.st, beq_iff_eq⟩

/-- A step that runs `i` is the execute phase of `i` and the end of the step (R89). -/
theorem step_of_runs {s t : State} {i : Instr} (hrun : s.runs i) (hexec : exec i s = .next t) :
    step s = .next t.endStep := by
  obtain ⟨hfault, hpc, rfl⟩ := hrun
  rw [step_exec hfault hpc, hexec]
  rfl

/-! ## The beep of every step (R221) -/

/-- A faulting execute phase leaves BEEP false (R252). -/
theorem exec_beep_of_fault {i : Instr} {s t : State} {k : Fault} (hs : s.fault = none) (hexec : exec i s = .next t)
    (ht : t.fault = some k) : t.beep = false := by
  rcases exec_cases hexec with hdone | ⟨j, rfl, _⟩
  · rw [hdone.fault, hs] at ht
    cases ht
  · exact State.takeFault_beep s j

/-- A step that executes an instruction beeps exactly where that completed and left ST = 1. -/
theorem endStep_beep_iff {i : Instr} {s t : State} (hs : s.fault = none) (hexec : exec i s = .next t) :
    t.endStep.beep = true ↔ t.fault = none ∧ t.st = 1 := by
  cases ht : t.fault with
  | none =>
    obtain ⟨_, _, hbeep⟩ := State.endStep_counts ht
    rw [hbeep, eq_self, true_and]
  | some k =>
    have hbeep : t.endStep.beep = false := by
      rw [State.endStep_faulted ht, State.takeInput_beep]
      exact exec_beep_of_fault hs hexec ht
    simp [hbeep]

/-! ## The wait for a key (R213) -/

/-- A pressed key below which none is pressed is the one the scan finds. -/
theorem State.firstKey_eq_some {s : State} {k : Reg} (hk : s.key[k] = true) (hlow : ∀ j < k, s.key[j] = false) :
    s.firstKey = some k := by
  cases h : s.firstKey with
  | none => exact absurd hk (by rw [State.firstKey_none h k]; decide)
  | some j =>
    obtain ⟨hj, hjlow⟩ := State.firstKey_some h
    rcases lt_trichotomy j k with hlt | rfl | hgt
    · rw [hlow j hlt] at hj; cases hj
    · rfl
    · rw [hjlow k hgt] at hk; cases hk

/-- With no key pressed the scan finds none. -/
theorem State.firstKey_eq_none {s : State} (h : ∀ k : Reg, s.key[k] = false) : s.firstKey = none := by
  cases hf : s.firstKey with
  | none => rfl
  | some j =>
    obtain ⟨hj, _⟩ := State.firstKey_some hf
    rw [h j] at hj; cases hj

/-- The rewind of FX0A undoes the advance of its fetch, at every PC: both wrap at 0x10000. -/
theorem State.rewind_advance (s : State) : s.advance.rewind = s := by
  have hpc : s.pc + 2 - 2 = s.pc := BitVec.add_sub_cancel s.pc 2
  exact congrArg s.setPc hpc

theorem exec_ldVxK (x : Reg) (s : State) : exec (.ldVxK x) s = .next (s.advance.takeKey x s.firstKey) :=
  rfl

theorem exec_ldVxK_of_firstKey_some {s : State} {k : Reg} (x : Reg) (h : s.firstKey = some k) :
    exec (.ldVxK x) s = .next (s.advance.setReg x (BitVec.ofNat 8 k.val)) := by
  rw [exec_ldVxK, h]
  rfl

/-- A waiting FX0A leaves the state it started from. -/
theorem exec_ldVxK_of_firstKey_none {s : State} (x : Reg) (h : s.firstKey = none) :
    exec (.ldVxK x) s = .next s := by
  rw [exec_ldVxK, h]
  exact congrArg Host.Outcome.next (State.rewind_advance s)

/-! ## The statements -/

/-- Settles O9: a step that ends without a fault had a completed execute phase, so `State.endStep_counts` says what its
end does. -/
theorem timersCountOncePerCompletedStep : Obligations.TimersCountOncePerCompletedStep := by
  intro s t u i hrun hexec hstep hu
  rw [step_of_runs hrun hexec] at hstep
  cases hstep
  obtain ⟨hdt, hst, hbeep⟩ := State.endStep_counts ((State.endStep_fault t).symm.trans hu)
  exact ⟨hdt, hst, hbeep.trans BitVec.toNat_inj.symm⟩

/-- Settles O10: of the three things a step can do, the two that run no instruction leave BEEP false, and the third
beeps as `endStep_beep_iff` says of the one instruction it runs. -/
theorem beepExactlyWhenSoundTimerGoesFromOne : Obligations.BeepExactlyWhenSoundTimerGoesFromOne := by
  intro s u hstep
  rcases step_cases hstep with ⟨k, hstuck, rfl⟩ | ⟨_, hrange, rfl⟩ | ⟨hfault, hpc, t, hexec, rfl⟩
  · refine iff_of_false Bool.false_ne_true ?_
    rintro ⟨i, t, ⟨hfault, _, _⟩, _⟩
    rw [hstuck] at hfault; cases hfault
  · refine iff_of_false Bool.false_ne_true ?_
    rintro ⟨i, t, ⟨_, hpc, _⟩, _⟩
    omega
  · rw [endStep_beep_iff hfault hexec]
    constructor
    · rintro ⟨ht, hst⟩
      exact ⟨_, t, ⟨hfault, hpc, rfl⟩, hexec, ht, hst⟩
    · rintro ⟨_, t', ⟨_, _, rfl⟩, hexec', ht, hst⟩
      rw [hexec] at hexec'; cases hexec'
      exact ⟨ht, hst⟩

/-- Settles O45: with a lowest pressed key the next state is one register write after the advance, and with none it is
the state itself, whose step is then the timer phase alone. -/
theorem waitForKeyTakesTheLowestKeyOrWaits : Obligations.WaitForKeyTakesTheLowestKeyOrWaits := by
  intro x s
  refine ⟨decode_wordXK_familyF x (by decide), fun k hk hlow => ?_, fun hnone => ?_⟩
  · obtain ⟨t, hexec, hreg, hpc, hframe⟩ :=
      exec_setReg_spec (exec_ldVxK_of_firstKey_some x (State.firstKey_eq_some hk hlow))
    have hkey : (t.reg x).toNat = k.val := by
      rw [hreg, BitVec.toNat_ofNat]
      omega
    exact ⟨t, hexec, hkey, hpc, hframe⟩
  · have hexec := exec_ldVxK_of_firstKey_none x (State.firstKey_eq_none hnone)
    refine ⟨⟨s, hexec, .refl _ s⟩, fun hrun => ?_⟩
    have hfault : s.fault = none := hrun.1
    exact ⟨_, step_of_runs hrun hexec, State.endStep_pc s, State.endStep_counts hfault⟩

end Sys2Proof.Machine
end

section
/-! SUPPORT. The unmapped words (45_unmapped.md): the four no-ops as the one next state they share, the advanced one. -/

namespace Sys2Proof.Machine

/-! ## The next states -/

theorem exec_nop0 (nnn : Addr) (s : State) : exec (.nop0 nnn) s = .next s.advance :=
  rfl

theorem exec_nop8 (x y : Reg) (n : Nibble) (s : State) : exec (.nop8 x y n) s = .next s.advance :=
  rfl

theorem exec_nopE (x : Reg) (nn : Byte) (s : State) : exec (.nopE x nn) s = .next s.advance :=
  rfl

theorem exec_nopF (x : Reg) (nn : Byte) (s : State) : exec (.nopF x nn) s = .next s.advance :=
  rfl

/-! ## The step -/

/-- A step whose execute phase only advances PC still counts both timers (R220, R240). -/
theorem step_of_exec_advance {s : State} {i : Instr} (hrun : s.runs i) (hexec : exec i s = .next s.advance) :
    ∃ u, step s = .next u ∧ u.pc = s.pc + 2 ∧ u.dt.toNat = s.dt.toNat - 1 ∧ u.st.toNat = s.st.toNat - 1 := by
  have hfault : s.advance.fault = none := hrun.1
  obtain ⟨hdt, hst, _⟩ := State.endStep_counts hfault
  exact ⟨_, step_of_runs hrun hexec, State.endStep_pc _, hdt, hst⟩

/-! ## The statement -/

/-- Settles O46: the execute phase of each of the four is the advance alone, which is a frame on PC and leaves FAULT
clear for the timer phase. -/
theorem unmappedWordsAreNoOps : Obligations.UnmappedWordsAreNoOps := by
  intro i s hnop
  have hexec : exec i s = .next s.advance := by
    rcases hnop with ⟨nnn, rfl⟩ | ⟨x, y, n, rfl⟩ | ⟨x, nn, rfl⟩ | ⟨x, nn, rfl⟩
    · exact exec_nop0 nnn s
    · exact exec_nop8 x y n s
    · exact exec_nopE x nn s
    · exact exec_nopF x nn s
  exact ⟨⟨_, hexec, State.advance_pc s, onlyChanges_advance s⟩, fun hrun => step_of_exec_advance hrun hexec⟩

end Sys2Proof.Machine
end

section
/-! SUPPORT. The keys under the host interface (60_exceptions.md): the write of KEY with its frame, and KEY through a
Step, a Load and every other host operation. -/

namespace Sys2Proof.Machine

/-! ## The write of KEY (R264) -/

theorem onlyChanges_writeKeys (s : State) (k : Vector Bool 16) :
    OnlyChanges (fun p => p = .key) s (s.writeKeys k) := by
  intro p hp
  cases p with
  | key => exact absurd rfl hp
  | _ => rfl

/-! ## A Step keeps KEY (R31) -/

/-- An execute phase keeps KEY, whether it completes or faults. -/
theorem exec_key {i : Instr} {s t : State} (h : exec i s = .next t) : t.key = s.key := by
  rcases exec_cases h with hdone | ⟨k, rfl, _⟩
  · exact hdone.key
  · exact State.takeFault_key s k

@[simp] theorem State.endStep_key (t : State) : t.endStep.key = t.key := by
  cases h : t.fault with
  | none => rw [State.endStep_completed h]; rfl
  | some k => rw [State.endStep_faulted h]; rfl

/-- None of the three things a step can do writes KEY. -/
theorem step_key {s t : State} (h : step s = .next t) : t.key = s.key := by
  rcases step_cases h with ⟨_, _, rfl⟩ | ⟨_, _, rfl⟩ | ⟨_, _, u, hexec, rfl⟩
  · rfl
  · rfl
  · exact (State.endStep_key u).trans (exec_key hexec)

/-! ## The other host operations keep KEY -/

/-- Load writes memory or nothing (R282). -/
theorem State.load_key (s : State) (buf : List Byte) : (s.load buf).2.key = s.key := by
  unfold State.load
  split
  · exact congrArg (·.key) (State.writeBytes_frame s 0x200 buf)
  · rfl

/-- The input handed over for a Step is no part of KEY (R261). -/
theorem State.stepWith_key {s t : State} {rnd : Byte} (h : s.stepWith rnd = .next t) : t.key = s.key :=
  step_key (s := { s with rndIn := rnd :: s.rndIn }) h

/-- A host Step that answers is a Step with its input handed over (R261). -/
theorem stepWith_of_hostOp_step {s t : State} {rnd : Byte} {r : HostReply}
    (h : hostOp (.step rnd) s = .next (r, t)) : s.stepWith rnd = .next t := by
  simp only [hostOp] at h
  split at h
  · next u hstep => cases h; exact hstep
  · cases h
  · cases h

/-- Of the host operations only Reset and WriteKeys write KEY (R264). -/
theorem hostOp_key {o : HostOp} {s t : State} {r : HostReply} (h : hostOp o s = .next (r, t))
    (hreset : o ≠ .reset) (hwrite : ∀ k, o ≠ .writeKeys k) : t.key = s.key := by
  cases o with
  | reset => exact absurd rfl hreset
  | writeKeys k => exact absurd rfl (hwrite k)
  | step rnd => exact State.stepWith_key (stepWith_of_hostOp_step h)
  | load buf => cases h; exact State.load_key s buf
  | readDisplay => cases h; rfl
  | readDrawFlag => cases h; rfl
  | clearDrawFlag => cases h; exact State.setDraw_key s false
  | readFault => cases h; rfl

/-! ## The statement -/

/-- Settles O55: WriteKeys is one field update, and every other way the state moves, a host operation or a step, has its
own lemma that KEY stays. -/
theorem keysAreWrittenByTheHostAlone : Obligations.KeysAreWrittenByTheHostAlone := by
  intro s
  exact ⟨fun k => ⟨s.writeKeys k, rfl, fun _ => rfl, onlyChanges_writeKeys s k⟩,
    fun _ _ _ h hreset hwrite => hostOp_key h hreset hwrite,
    fun _ h => step_key h⟩

end Sys2Proof.Machine
end

section
/-! SUPPORT. The decoder against the encoder (30_encoding.md): a word is put together again from its fields, so the
decoder and the encoder are inverse to each other on well-formed instructions. -/

namespace Sys2Proof.Machine

/-! ## A word from its fields (R81, R82) -/

theorem eq_ofNat_of_toNat_eq {w k : Nat} {b : BitVec w} (h : b.toNat = k) : b = BitVec.ofNat w k := by
  rw [← h, BitVec.ofNat_toNat, BitVec.setWidth_eq]

section
variable {w : Word} {f : Nat}

theorem formatA_fields (hf : (familyOf w).toNat = f) : formatA (BitVec.ofNat 4 f) (nnnOf w) = w := by
  have hw : w.toNat < 65536 := w.isLt
  rw [← eq_ofNat_of_toNat_eq hf]
  apply BitVec.eq_of_toNat_eq
  rw [formatA_eq, wordA_toNat (familyOf w).isLt (nnnOf w).isLt, familyOf_toNat, nnnOf_toNat]
  omega

theorem formatXK_fields (hf : (familyOf w).toNat = f) : formatXK (BitVec.ofNat 4 f) (xOf w) (nnOf w) = w := by
  have hw : w.toNat < 65536 := w.isLt
  rw [← eq_ofNat_of_toNat_eq hf]
  apply BitVec.eq_of_toNat_eq
  rw [formatXK_eq, wordXK_toNat _ (familyOf w).isLt (nnOf w).isLt, familyOf_toNat, xOf_val, nnOf_toNat]
  omega

theorem formatXY_fields (hf : (familyOf w).toNat = f) :
    formatXY (BitVec.ofNat 4 f) (xOf w) (yOf w) (nOf w) = w := by
  have hw : w.toNat < 65536 := w.isLt
  rw [← eq_ofNat_of_toNat_eq hf]
  apply BitVec.eq_of_toNat_eq
  rw [formatXY_eq, word4_toNat _ _ (familyOf w).isLt (nOf w).isLt, familyOf_toNat, xOf_val, yOf_val, nOf_toNat]
  omega

end

/-! ## The families with a sub-selector (R86 to R88) -/

theorem decodeFamily0_wf (nnn : Addr) : (decodeFamily0 nnn).wf = true := by
  unfold decodeFamily0
  split
  · rfl
  · rfl
  · next h0 h1 =>
    have hcls : nnn ≠ 0x0E0 := fun e => h0 (congrArg BitVec.toNat e)
    have hret : nnn ≠ 0x0EE := fun e => h1 (congrArg BitVec.toNat e)
    exact Bool.and_eq_true_iff.mpr ⟨bne_iff_ne.mpr hcls, bne_iff_ne.mpr hret⟩

theorem encode_decodeFamily0 (nnn : Addr) : encode (decodeFamily0 nnn) = formatA 0x0 nnn := by
  unfold decodeFamily0
  split
  · next h => rw [eq_ofNat_of_toNat_eq h]; rfl
  · next h => rw [eq_ofNat_of_toNat_eq h]; rfl
  · rfl

/-- What family 8 selects is well-formed and keeps its fields, selector by selector. -/
theorem decodeFamily8_wf (x y : Reg) (n : Nibble) : (decodeFamily8 x y n).wf = true := by
  obtain ⟨n⟩ := n
  fin_cases n <;> rfl

theorem encode_decodeFamily8 (x y : Reg) (n : Nibble) : encode (decodeFamily8 x y n) = formatXY 0x8 x y n := by
  obtain ⟨n⟩ := n
  fin_cases n <;> rfl

theorem decodeFamilyE_wf (x : Reg) (nn : Byte) : (decodeFamilyE x nn).wf = true := by
  unfold decodeFamilyE
  split
  · rfl
  · rfl
  · next h0 h1 =>
    have hskp : nn ≠ 0x9E := fun e => h0 (congrArg BitVec.toNat e)
    have hsknp : nn ≠ 0xA1 := fun e => h1 (congrArg BitVec.toNat e)
    exact Bool.and_eq_true_iff.mpr ⟨bne_iff_ne.mpr hskp, bne_iff_ne.mpr hsknp⟩

theorem encode_decodeFamilyE (x : Reg) (nn : Byte) : encode (decodeFamilyE x nn) = formatXK 0xE x nn := by
  unfold decodeFamilyE
  split
  · next h => rw [eq_ofNat_of_toNat_eq h]; rfl
  · next h => rw [eq_ofNat_of_toNat_eq h]; rfl
  · rfl

theorem decodeFamilyF_wf (x : Reg) (nn : Byte) : (decodeFamilyF x nn).wf = true := by
  by_cases h : unmappedF nn = true
  · unfold decodeFamilyF
    split
    case h_10 => exact h
    all_goals rfl
  · simp only [unmappedF, Bool.not_eq_true', Bool.not_eq_false, List.contains_iff_mem, List.mem_cons,
      List.not_mem_nil, or_false] at h
    rcases h with rfl | rfl | rfl | rfl | rfl | rfl | rfl | rfl | rfl <;> rfl

theorem encode_decodeFamilyF (x : Reg) (nn : Byte) : encode (decodeFamilyF x nn) = formatXK 0xF x nn := by
  unfold decodeFamilyF
  split
  case h_10 => rfl
  all_goals next h => rw [eq_ofNat_of_toNat_eq h]; rfl

/-! ## Decoding, then encoding -/

/-- Every word decodes to a well-formed instruction: only a family with a sub-selector could fail to (R84). -/
theorem decode_wf (w : Word) : (decode w).wf = true := by
  unfold decode
  split
  case h_1 => exact decodeFamily0_wf _
  case h_9 => exact decodeFamily8_wf ..
  case h_15 => exact decodeFamilyE_wf ..
  case h_16 => exact decodeFamilyF_wf ..
  all_goals rfl

/-- The word of the decoded instruction is the word: each arm of the decoder keeps all fields of its family. -/
theorem encode_decode (w : Word) : encode (decode w) = w := by
  unfold decode
  split
  case h_1 hf => exact (encode_decodeFamily0 _).trans (formatA_fields hf)
  case h_9 hf => exact (encode_decodeFamily8 ..).trans (formatXY_fields hf)
  case h_15 hf => exact (encode_decodeFamilyE ..).trans (formatXK_fields hf)
  case h_16 =>
    have hf : (familyOf w).toNat = 0xF := by
      have hlt := (familyOf w).isLt
      simp only [imp_false] at *
      omega
    exact (encode_decodeFamilyF ..).trans (formatXK_fields hf)
  case h_2 | h_3 | h_11 | h_12 => next hf => exact formatA_fields hf
  case h_4 | h_5 | h_7 | h_8 | h_13 => next hf => exact formatXK_fields hf
  case h_6 | h_10 | h_14 => next hf => exact formatXY_fields hf

/-! ## Encoding, then decoding -/

theorem nnnOf_formatA (f : Nibble) (nnn : Addr) : nnnOf (formatA f nnn) = nnn := by
  rw [formatA_eq, nnnOf_wordA f.isLt]

theorem xOf_formatXK (f : Nibble) (x : Reg) (nn : Byte) : xOf (formatXK f x nn) = x := by
  rw [formatXK_eq, xOf_wordXK x f.isLt nn.isLt]

theorem nnOf_formatXK (f : Nibble) (x : Reg) (nn : Byte) : nnOf (formatXK f x nn) = nn := by
  rw [formatXK_eq, nnOf_wordXK_byte f.isLt]

theorem xOf_formatXY (f : Nibble) (x y : Reg) (n : Nibble) : xOf (formatXY f x y n) = x := by
  rw [formatXY_eq, xOf_word4 x y f.isLt n.isLt]

theorem yOf_formatXY (f : Nibble) (x y : Reg) (n : Nibble) : yOf (formatXY f x y n) = y := by
  rw [formatXY_eq, yOf_word4 x y f.isLt n.isLt]

theorem nOf_formatXY (f : Nibble) (x y : Reg) (n : Nibble) : nOf (formatXY f x y n) = n := by
  rw [formatXY_eq, nOf_word4 x y f.isLt n.isLt, BitVec.ofNat_toNat, BitVec.setWidth_eq]

/-- An unmapped sub-selector of family 0 selects the no-op (R86, R240). -/
theorem decodeFamily0_of_unmapped {nnn : Addr} (h : unmapped0 nnn = true) : decodeFamily0 nnn = .nop0 nnn := by
  unfold decodeFamily0
  split
  case h_3 => rfl
  all_goals next hn => rw [eq_ofNat_of_toNat_eq hn] at h; cases h

/-- An unmapped sub-selector of family 8 selects the no-op (R87, R240). -/
theorem decodeFamily8_of_unmapped {n : Nibble} (x y : Reg) (h : unmapped8 n = true) :
    decodeFamily8 x y n = .nop8 x y n := by
  unfold decodeFamily8
  split
  case h_10 => rfl
  all_goals next hn => rw [eq_ofNat_of_toNat_eq hn] at h; cases h

/-- An unmapped sub-selector of family E selects the no-op (R88, R240). -/
theorem decodeFamilyE_of_unmapped {nn : Byte} (x : Reg) (h : unmappedE nn = true) :
    decodeFamilyE x nn = .nopE x nn := by
  unfold decodeFamilyE
  split
  case h_3 => rfl
  all_goals next hn => rw [eq_ofNat_of_toNat_eq hn] at h; cases h

/-- An unmapped sub-selector of family F selects the no-op (R88, R240). -/
theorem decodeFamilyF_of_unmapped {nn : Byte} (x : Reg) (h : unmappedF nn = true) :
    decodeFamilyF x nn = .nopF x nn := by
  unfold decodeFamilyF
  split
  case h_10 => rfl
  all_goals next hn => rw [eq_ofNat_of_toNat_eq hn] at h; cases h

/-- The decoder gives a well-formed instruction back from its word: the formats give every field back, and the no-ops,
whose sub-selector is unmapped, fall through the dispatch of their family. -/
theorem decode_encode {i : Instr} (h : i.wf = true) : decode (encode i) = i := by
  cases i
  case nop0 nnn =>
    simp only [encode, decode, familyOf_formatA, nnnOf_formatA]
    exact decodeFamily0_of_unmapped h
  case nop8 x y n =>
    simp only [encode, decode, familyOf_formatXY, xOf_formatXY, yOf_formatXY, nOf_formatXY]
    exact decodeFamily8_of_unmapped x y h
  case nopE x nn =>
    simp only [encode, decode, familyOf_formatXK, xOf_formatXK, nnOf_formatXK]
    exact decodeFamilyE_of_unmapped x h
  case nopF x nn =>
    simp only [encode, decode, familyOf_formatXK, xOf_formatXK, nnOf_formatXK]
    exact decodeFamilyF_of_unmapped x h
  all_goals
    simp only [encode, decode, familyOf_formatA, nnnOf_formatA, familyOf_formatXK, xOf_formatXK, nnOf_formatXK,
      familyOf_formatXY, xOf_formatXY, yOf_formatXY, nOf_formatXY]
    rfl

/-- The two bytes of a word in memory order are the word again (R65). -/
theorem opcodeOfBytes_extract (w : Word) : opcodeOfBytes (w.extractLsb' 8 8) (w.extractLsb' 0 8) = w := by
  apply BitVec.eq_of_toNat_eq
  have hw : w.toNat < 65536 := w.isLt
  rw [opcodeOfBytes_eq, BitVec.toNat_ofNat, BitVec.extractLsb'_toNat, BitVec.extractLsb'_toNat,
    Nat.shiftRight_eq_div_pow, Nat.shiftRight_eq_div_pow]
  omega

/-! ## The statements -/

/-- Settles O2: the decoder inverts the encoder on words, and the two bytes of a word are that word. -/
theorem decodeOfEncodeIsIdentity : Obligations.DecodeOfEncodeIsIdentity := by
  intro i hwf
  have hword : decode (encode i) = i := decode_encode hwf
  refine ⟨hword, fun rest => ?_⟩
  calc decodeBytes (encodeBytes i ++ rest)
      = .ok (decode (opcodeOfBytes ((encode i).extractLsb' 8 8) ((encode i).extractLsb' 0 8)), rest) := rfl
    _ = .ok (i, rest) := by rw [opcodeOfBytes_extract, hword]

/-- Settles O3: the decoded instruction encodes the word, and any other that does decodes back to itself. -/
theorem everyWordEncodesExactlyOneInstruction : Obligations.EveryWordEncodesExactlyOneInstruction := by
  intro w
  refine ⟨decode_wf w, encode_decode w, fun i hwf hword => ?_⟩
  rw [← hword, decode_encode hwf]

end Sys2Proof.Machine
end

section
/-! SUPPORT. The unmapped words and their number (45_unmapped.md), and the opcode table (spec/opcode_table.json). -/

namespace Sys2Proof.Machine

/-! ## Unmapped sub-selectors as numbers (R241) -/

theorem unmapped0_iff (nnn : Addr) : unmapped0 nnn = true ↔ nnn.toNat ∉ [0x0E0, 0x0EE] := by
  simp [unmapped0, ← BitVec.toNat_inj]

theorem unmapped8_iff (n : Nibble) :
    unmapped8 n = true ↔ n.toNat ∈ [0x8, 0x9, 0xA, 0xB, 0xC, 0xD, 0xF] := by
  simp [unmapped8, ← BitVec.toNat_inj]

theorem unmappedE_iff (nn : Byte) : unmappedE nn = true ↔ nn.toNat ∉ [0x9E, 0xA1] := by
  simp [unmappedE, ← BitVec.toNat_inj]

theorem unmappedF_iff (nn : Byte) :
    unmappedF nn = true ↔ nn.toNat ∉ [0x07, 0x0A, 0x15, 0x18, 0x1E, 0x29, 0x33, 0x55, 0x65] := by
  simp [unmappedF, ← BitVec.toNat_inj]

/-! ## The words that decode to a no-op -/

theorem familyOf_toNat_eq (w : Word) : (familyOf w).toNat = w.toNat / 4096 := by
  have hw : w.toNat < 65536 := w.isLt
  rw [familyOf_toNat]
  omega

/-- A word that decodes to a well-formed instruction is that instruction's word. -/
theorem eq_encode_of_decode {w : Word} {i : Instr} (h : decode w = i) : i.wf = true ∧ w = encode i :=
  ⟨h ▸ decode_wf w, by rw [← h, encode_decode]⟩

theorem decode_nop0_iff (w : Word) :
    (∃ nnn, decode w = .nop0 nnn) ↔ (familyOf w).toNat = 0x0 ∧ unmapped0 (nnnOf w) = true := by
  constructor
  · rintro ⟨nnn, h⟩
    obtain ⟨hwf, rfl⟩ := eq_encode_of_decode h
    simp only [encode, familyOf_formatA, nnnOf_formatA]
    exact ⟨rfl, hwf⟩
  · rintro ⟨hf, hu⟩
    refine ⟨nnnOf w, ?_⟩
    simp only [decode, hf]
    exact decodeFamily0_of_unmapped hu

theorem decode_nop8_iff (w : Word) :
    (∃ x y n, decode w = .nop8 x y n) ↔ (familyOf w).toNat = 0x8 ∧ unmapped8 (nOf w) = true := by
  constructor
  · rintro ⟨x, y, n, h⟩
    obtain ⟨hwf, rfl⟩ := eq_encode_of_decode h
    simp only [encode, familyOf_formatXY, nOf_formatXY]
    exact ⟨rfl, hwf⟩
  · rintro ⟨hf, hu⟩
    refine ⟨xOf w, yOf w, nOf w, ?_⟩
    simp only [decode, hf]
    exact decodeFamily8_of_unmapped _ _ hu

theorem decode_nopE_iff (w : Word) :
    (∃ x nn, decode w = .nopE x nn) ↔ (familyOf w).toNat = 0xE ∧ unmappedE (nnOf w) = true := by
  constructor
  · rintro ⟨x, nn, h⟩
    obtain ⟨hwf, rfl⟩ := eq_encode_of_decode h
    simp only [encode, familyOf_formatXK, nnOf_formatXK]
    exact ⟨rfl, hwf⟩
  · rintro ⟨hf, hu⟩
    refine ⟨xOf w, nnOf w, ?_⟩
    simp only [decode, hf]
    exact decodeFamilyE_of_unmapped _ hu

theorem decode_nopF_iff (w : Word) :
    (∃ x nn, decode w = .nopF x nn) ↔ (familyOf w).toNat = 0xF ∧ unmappedF (nnOf w) = true := by
  constructor
  · rintro ⟨x, nn, h⟩
    obtain ⟨hwf, rfl⟩ := eq_encode_of_decode h
    simp only [encode, familyOf_formatXK, nnOf_formatXK]
    exact ⟨rfl, hwf⟩
  · rintro ⟨hf, hu⟩
    refine ⟨xOf w, nnOf w, ?_⟩
    simp only [decode, hf]
    exact decodeFamilyF_of_unmapped _ hu

/-! ## Their number: the test of a family looks at a sub-selector, which repeats along the words of the family -/

theorem isUnmapped_iff (i : Instr) : isUnmapped i = true ↔
    (∃ nnn, i = .nop0 nnn) ∨ (∃ x y n, i = .nop8 x y n) ∨ (∃ x nn, i = .nopE x nn) ∨ ∃ x nn, i = .nopF x nn := by
  cases i <;> simp [isUnmapped]

/-- A word of family `f` is unmapped exactly where the one test of its family says so. -/
theorem isUnmapped_decode_iff (w : Word) : isUnmapped (decode w) = true ↔
    ((familyOf w).toNat = 0x0 ∧ unmapped0 (nnnOf w) = true) ∨ ((familyOf w).toNat = 0x8 ∧ unmapped8 (nOf w) = true) ∨
    ((familyOf w).toNat = 0xE ∧ unmappedE (nnOf w) = true) ∨
    ((familyOf w).toNat = 0xF ∧ unmappedF (nnOf w) = true) := by
  rw [isUnmapped_iff, decode_nop0_iff, decode_nop8_iff, decode_nopE_iff, decode_nopF_iff]

theorem countP_range_periodic (p : Nat → Bool) (a m : Nat) (hp : ∀ k, p (k + a) = p k) :
    (List.range (a * m)).countP p = m * (List.range a).countP p := by
  induction m with
  | zero => simp
  | succ m ih =>
    have hshift : ∀ k, p (a * m + k) = p k := by
      intro k
      rw [Nat.add_comm, Nat.mul_comm]
      exact Function.Periodic.nat_mul (f := p) (c := a) hp m k
    rw [Nat.mul_succ, List.range_add, List.countP_append, ih, List.countP_map, Nat.succ_mul]
    exact congrArg _ (List.countP_congr fun k _ => by simp [hshift k])

theorem isUnmapped_decode_wordA0 {k : Nat} (hk : k < 4096) :
    isUnmapped (decode (wordA 0x0 k)) = unmapped0 (BitVec.ofNat 12 k) := by
  have hw := wordA_toNat (f := 0x0) (by decide) hk
  have hf : (familyOf (wordA 0x0 k)).toNat = 0x0 := by rw [familyOf_toNat_eq, hw]; omega
  have hn : nnnOf (wordA 0x0 k) = BitVec.ofNat 12 k :=
    BitVec.eq_of_toNat_eq (by rw [nnnOf_toNat, hw, BitVec.toNat_ofNat]; omega)
  rw [Bool.eq_iff_iff, isUnmapped_decode_iff]
  simp [hf, hn]

theorem isUnmapped_decode_wordA8 {k : Nat} (hk : k < 4096) :
    isUnmapped (decode (wordA 0x8 k)) = unmapped8 (BitVec.ofNat 4 k) := by
  have hw := wordA_toNat (f := 0x8) (by decide) hk
  have hf : (familyOf (wordA 0x8 k)).toNat = 0x8 := by rw [familyOf_toNat_eq, hw]; omega
  have hn : nOf (wordA 0x8 k) = BitVec.ofNat 4 k :=
    BitVec.eq_of_toNat_eq (by rw [nOf_toNat, hw, BitVec.toNat_ofNat]; omega)
  rw [Bool.eq_iff_iff, isUnmapped_decode_iff]
  simp [hf, hn]

theorem isUnmapped_decode_wordAE {k : Nat} (hk : k < 4096) :
    isUnmapped (decode (wordA 0xE k)) = unmappedE (BitVec.ofNat 8 k) := by
  have hw := wordA_toNat (f := 0xE) (by decide) hk
  have hf : (familyOf (wordA 0xE k)).toNat = 0xE := by rw [familyOf_toNat_eq, hw]; omega
  have hn : nnOf (wordA 0xE k) = BitVec.ofNat 8 k :=
    BitVec.eq_of_toNat_eq (by rw [nnOf_toNat, hw, BitVec.toNat_ofNat]; omega)
  rw [Bool.eq_iff_iff, isUnmapped_decode_iff]
  simp [hf, hn]

theorem isUnmapped_decode_wordAF {k : Nat} (hk : k < 4096) :
    isUnmapped (decode (wordA 0xF k)) = unmappedF (BitVec.ofNat 8 k) := by
  have hw := wordA_toNat (f := 0xF) (by decide) hk
  have hf : (familyOf (wordA 0xF k)).toNat = 0xF := by rw [familyOf_toNat_eq, hw]; omega
  have hn : nnOf (wordA 0xF k) = BitVec.ofNat 8 k :=
    BitVec.eq_of_toNat_eq (by rw [nnOf_toNat, hw, BitVec.toNat_ofNat]; omega)
  rw [Bool.eq_iff_iff, isUnmapped_decode_iff]
  simp [hf, hn]

/-- The words of a family whose test `p` of the low 12 bits repeats with period `a`. -/
theorem countP_unmapped_of_periodic {f : Nat} {p : Nat → Bool} (a m : Nat) (ham : a * m = 4096)
    (hf : ∀ k < 4096, isUnmapped (decode (wordA f k)) = p k) (hp : ∀ k, p (k + a) = p k) :
    (List.range 4096).countP (fun k => isUnmapped (decode (wordA f k))) = m * (List.range a).countP p := by
  rw [← countP_range_periodic p a m hp, ham]
  exact List.countP_congr fun k hk => by rw [hf k (List.mem_range.mp hk)]

/-- Of family 0 the two mapped words are among the first 256; the others are all unmapped. -/
theorem countP_unmapped0 : (List.range 4096).countP (fun k => unmapped0 (BitVec.ofNat 12 k)) = 4094 := by
  have hlow : (List.range 256).countP (fun k => unmapped0 (BitVec.ofNat 12 k)) = 254 := by decide +kernel
  have hhigh : ∀ k < 3840, unmapped0 (BitVec.ofNat 12 (256 + k)) = true := by
    intro k hk
    have hn : (BitVec.ofNat 12 (256 + k)).toNat = 256 + k := by rw [BitVec.toNat_ofNat]; omega
    simp only [unmapped0_iff, hn, List.mem_cons, List.not_mem_nil, or_false]
    omega
  rw [show 4096 = 256 + 3840 from rfl, List.range_add, List.countP_append, List.countP_map, hlow,
    List.countP_eq_length.mpr fun k hk => by exact hhigh k (List.mem_range.mp hk), List.length_range]

/-- Settles O6: a family's test of its sub-selector decides which words are unmapped, and it is counted over one
period of the sub-selector. -/
theorem unmappedWordsAreExactlyTheListed : Obligations.UnmappedWordsAreExactlyTheListed := by
  refine ⟨fun w => ⟨?_, ?_, ?_, ?_⟩, ?_, ?_, ?_, ?_⟩
  · rw [decode_nop0_iff, unmapped0_iff, familyOf_toNat_eq, nnnOf_toNat]
  · rw [decode_nop8_iff, unmapped8_iff, familyOf_toNat_eq, nOf_toNat]
  · rw [decode_nopE_iff, unmappedE_iff, familyOf_toNat_eq, nnOf_toNat]
  · rw [decode_nopF_iff, unmappedF_iff, familyOf_toNat_eq, nnOf_toNat]
  · rw [← countP_unmapped0]
    exact List.countP_congr fun k hk => by rw [isUnmapped_decode_wordA0 (List.mem_range.mp hk)]
  · rw [countP_unmapped_of_periodic 16 256 rfl (fun _ => isUnmapped_decode_wordA8)
      fun k => by rw [← BitVec.ofNat_add_ofNat]; simp]
    decide
  · rw [countP_unmapped_of_periodic 256 16 rfl (fun _ => isUnmapped_decode_wordAE)
      fun k => by rw [← BitVec.ofNat_add_ofNat]; simp]
    decide +kernel
  · rw [countP_unmapped_of_periodic 256 16 rfl (fun _ => isUnmapped_decode_wordAF)
      fun k => by rw [← BitVec.ofNat_add_ofNat]; simp]
    decide +kernel

end Sys2Proof.Machine
end

section
/-! SUPPORT. The opcode table (spec/opcode_table.json): two rows with conflicting bits share no word, and a row's mask
and bits as a test of the fields the decoder looks at. -/

namespace Sys2Proof.Machine

/-! ## Rows that share no word -/

/-- Rows whose bits differ under both masks share no word. -/
theorem OpcodeRow.not_holds_both {r q : OpcodeRow} (h : r.bits &&& q.mask ≠ q.bits &&& r.mask) (w : Word) :
    ¬ (r.holds w = true ∧ q.holds w = true) := by
  rintro ⟨hr, hq⟩
  simp only [OpcodeRow.holds, beq_iff_eq] at hr hq
  apply h
  rw [← hr, ← hq, BitVec.and_assoc, BitVec.and_assoc, BitVec.and_comm r.mask]

/-- Settles O5: the 34 patterns conflict pairwise in their bits under both masks. -/
theorem noTwoPatternsOverlap : Obligations.NoTwoPatternsOverlap := by
  have hbits : opcodeRows.Pairwise fun r q => r.bits &&& q.mask ≠ q.bits &&& r.mask := by decide +kernel
  exact hbits.imp fun h w => OpcodeRow.not_holds_both h w

/-! ## A row as a test of fields -/

/-- Two words are equal where their fields of format A are. -/
theorem word_ext_formatA {w v : Word} (hf : familyOf w = familyOf v) (hn : nnnOf w = nnnOf v) : w = v := by
  rw [← formatA_fields (w := w) rfl, ← formatA_fields (w := v) rfl, hf, hn]

/-- Two words are equal where their fields of format XK are. -/
theorem word_ext_formatXK {w v : Word} (hf : familyOf w = familyOf v) (hx : xOf w = xOf v)
    (hn : nnOf w = nnOf v) : w = v := by
  rw [← formatXK_fields (w := w) rfl, ← formatXK_fields (w := v) rfl, hf, hx, hn]

/-- Two words are equal where their fields of format XY are. -/
theorem word_ext_formatXY {w v : Word} (hf : familyOf w = familyOf v) (hx : xOf w = xOf v) (hy : yOf w = yOf v)
    (hn : nOf w = nOf v) : w = v := by
  rw [← formatXY_fields (w := w) rfl, ← formatXY_fields (w := v) rfl, hf, hx, hy, hn]

theorem familyOf_and (w v : Word) : familyOf (w &&& v) = familyOf w &&& familyOf v := BitVec.extractLsb'_and
theorem nnnOf_and (w v : Word) : nnnOf (w &&& v) = nnnOf w &&& nnnOf v := BitVec.extractLsb'_and
theorem nnOf_and (w v : Word) : nnOf (w &&& v) = nnOf w &&& nnOf v := BitVec.extractLsb'_and
theorem nOf_and (w v : Word) : nOf (w &&& v) = nOf w &&& nOf v := BitVec.extractLsb'_and

/-- A field that a mask leaves out reads 0. -/
theorem xOf_and_of_zero {w v : Word} (h : v.extractLsb' 8 4 = 0) : xOf (w &&& v) = 0 := by
  rw [xOf, BitVec.extractLsb'_and, h]; exact congrArg BitVec.toFin BitVec.and_zero

theorem yOf_and_of_zero {w v : Word} (h : v.extractLsb' 4 4 = 0) : yOf (w &&& v) = 0 := by
  rw [yOf, BitVec.extractLsb'_and, h]; exact congrArg BitVec.toFin BitVec.and_zero

section
variable (m : String) (b w : Word)

/-- A row that looks at the family only (R85). -/
theorem holds_family : OpcodeRow.holds ⟨m, b, 0xF000#16⟩ w =
    decide ((familyOf w).toNat = b.toNat / 4096 ∧ b.toNat % 4096 = 0) := by
  have hf : familyOf (w &&& 0xF000#16) = familyOf w := (familyOf_and ..).trans BitVec.and_allOnes
  have hn : nnnOf (w &&& 0xF000#16) = 0 := (nnnOf_and ..).trans BitVec.and_zero
  rw [Bool.eq_iff_iff, decide_eq_true_iff, ← familyOf_toNat_eq, ← nnnOf_toNat]
  constructor
  · intro h
    rw [← show _ = b from eq_of_beq h, hf, hn]
    exact ⟨rfl, rfl⟩
  · rintro ⟨h1, h2⟩
    exact beq_iff_eq.mpr (word_ext_formatA (hf.trans (BitVec.eq_of_toNat_eq h1))
      (hn.trans (BitVec.eq_of_toNat_eq h2.symm)))

/-- A row that looks at every bit (R86). -/
theorem holds_family_nnn : OpcodeRow.holds ⟨m, b, 0xFFFF#16⟩ w =
    decide ((familyOf w).toNat = b.toNat / 4096 ∧ (nnnOf w).toNat = b.toNat % 4096) := by
  rw [Bool.eq_iff_iff, decide_eq_true_iff, ← familyOf_toNat_eq, ← nnnOf_toNat, OpcodeRow.holds,
    show w &&& 0xFFFF#16 = w from BitVec.and_allOnes, beq_iff_eq]
  constructor
  · intro h
    rw [h]
    exact ⟨rfl, rfl⟩
  · rintro ⟨h1, h2⟩
    exact word_ext_formatA (BitVec.eq_of_toNat_eq h1) (BitVec.eq_of_toNat_eq h2)

/-- A row that looks at the family and NN (R88). -/
theorem holds_family_nn : OpcodeRow.holds ⟨m, b, 0xF0FF#16⟩ w =
    decide ((familyOf w).toNat = b.toNat / 4096 ∧ (nnOf w).toNat = b.toNat % 256 ∧ b.toNat / 256 % 16 = 0) := by
  have hf : familyOf (w &&& 0xF0FF#16) = familyOf w := (familyOf_and ..).trans BitVec.and_allOnes
  have hn : nnOf (w &&& 0xF0FF#16) = nnOf w := (nnOf_and ..).trans BitVec.and_allOnes
  have hx : xOf (w &&& 0xF0FF#16) = 0 := xOf_and_of_zero rfl
  rw [Bool.eq_iff_iff, decide_eq_true_iff, ← familyOf_toNat_eq, ← nnOf_toNat, ← xOf_val]
  constructor
  · intro h
    rw [← show _ = b from eq_of_beq h, hf, hn, hx]
    exact ⟨rfl, rfl, rfl⟩
  · rintro ⟨h1, h2, h3⟩
    exact beq_iff_eq.mpr (word_ext_formatXK (hf.trans (BitVec.eq_of_toNat_eq h1)) (hx.trans (Fin.ext h3.symm))
      (hn.trans (BitVec.eq_of_toNat_eq h2)))

/-- A row that looks at the family and N (R87). -/
theorem holds_family_n : OpcodeRow.holds ⟨m, b, 0xF00F#16⟩ w =
    decide ((familyOf w).toNat = b.toNat / 4096 ∧ (nOf w).toNat = b.toNat % 16 ∧ b.toNat / 256 % 16 = 0 ∧
      b.toNat / 16 % 16 = 0) := by
  have hf : familyOf (w &&& 0xF00F#16) = familyOf w := (familyOf_and ..).trans BitVec.and_allOnes
  have hn : nOf (w &&& 0xF00F#16) = nOf w := (nOf_and ..).trans BitVec.and_allOnes
  have hx : xOf (w &&& 0xF00F#16) = 0 := xOf_and_of_zero rfl
  have hy : yOf (w &&& 0xF00F#16) = 0 := yOf_and_of_zero rfl
  rw [Bool.eq_iff_iff, decide_eq_true_iff, ← familyOf_toNat_eq, ← nOf_toNat, ← xOf_val, ← yOf_val]
  constructor
  · intro h
    rw [← show _ = b from eq_of_beq h, hf, hn, hx, hy]
    exact ⟨rfl, rfl, rfl, rfl⟩
  · rintro ⟨h1, h2, h3, h4⟩
    exact beq_iff_eq.mpr (word_ext_formatXY (hf.trans (BitVec.eq_of_toNat_eq h1)) (hx.trans (Fin.ext h3.symm))
      (hy.trans (Fin.ext h4.symm)) (hn.trans (BitVec.eq_of_toNat_eq h2)))

end

/-! ## The rows of one family -/

/-- Every row looks at the whole family, so a word's row is found among the rows of its family. -/
theorem tableRow_eq_of_family {w : Word} {f : Nat} (hf : (familyOf w).toNat = f) :
    tableRow w = (opcodeTable.filter fun r => (familyOf r.bits).toNat == f).find? fun r => r.holds w := by
  have hmask : ∀ r ∈ opcodeTable, familyOf r.mask = 0xF := by decide
  rw [List.find?_filter, tableRow]
  refine List.find?_congr fun r hr => ?_
  cases hrow : r.holds w with
  | false => simp
  | true =>
    have hbits : familyOf r.bits = familyOf w := by
      rw [← show w &&& r.mask = r.bits from eq_of_beq hrow, familyOf_and, hmask r hr]
      exact BitVec.and_allOnes
    simp [hbits, hf]

/-- In a family of one row that looks at nothing more, that row is the word's. -/
theorem tableRow_of_single {w : Word} {f : Nat} {m : String} {b : Word} (hf : (familyOf w).toNat = f)
    (hrows : (opcodeTable.filter fun r => (familyOf r.bits).toNat == f) = [⟨m, b, 0xF000#16⟩])
    (hb : b.toNat = f * 4096) : (tableRow w).map OpcodeRow.mnemonic = some m := by
  have hrow : OpcodeRow.holds ⟨m, b, 0xF000#16⟩ w = true := by
    rw [holds_family, decide_eq_true_iff, hf, hb]
    omega
  rw [tableRow_eq_of_family hf, hrows, List.find?_cons_of_pos (by exact hrow)]
  rfl

theorem opcodeTable_family0 : (opcodeTable.filter fun r => (familyOf r.bits).toNat == 0x0) =
    [⟨"CLS", 0x00E0, 0xFFFF⟩, ⟨"RET", 0x00EE, 0xFFFF⟩, ⟨"NOP__family_0__unmapped", 0x0000, 0xF000⟩] := by
  decide

theorem tableRow_family0 {w : Word} (hf : (familyOf w).toNat = 0x0) :
    (tableRow w).map OpcodeRow.mnemonic = some (decodeFamily0 (nnnOf w)).mnemonic := by
  rw [tableRow_eq_of_family hf, opcodeTable_family0]
  unfold decodeFamily0
  split <;> simp_all [holds_family, holds_family_nnn, Instr.mnemonic]

theorem opcodeTable_family8 : (opcodeTable.filter fun r => (familyOf r.bits).toNat == 0x8) =
    opcodeRows8 ++ [⟨"NOP__family_8__unmapped", 0x8000, 0xF000⟩] := by
  decide

theorem tableRow_family8 {w : Word} (hf : (familyOf w).toNat = 0x8) :
    (tableRow w).map OpcodeRow.mnemonic = some (decodeFamily8 (xOf w) (yOf w) (nOf w)).mnemonic := by
  rw [tableRow_eq_of_family hf, opcodeTable_family8]
  unfold decodeFamily8
  split <;> simp_all [opcodeRows8, holds_family, holds_family_n, Instr.mnemonic]

theorem opcodeTable_familyE : (opcodeTable.filter fun r => (familyOf r.bits).toNat == 0xE) =
    [⟨"SKP_Vx", 0xE09E, 0xF0FF⟩, ⟨"SKNP_Vx", 0xE0A1, 0xF0FF⟩, ⟨"NOP__family_E__unmapped", 0xE000, 0xF000⟩] := by
  decide

theorem tableRow_familyE {w : Word} (hf : (familyOf w).toNat = 0xE) :
    (tableRow w).map OpcodeRow.mnemonic = some (decodeFamilyE (xOf w) (nnOf w)).mnemonic := by
  rw [tableRow_eq_of_family hf, opcodeTable_familyE]
  unfold decodeFamilyE
  split <;> simp_all [holds_family, holds_family_nn, Instr.mnemonic]

theorem opcodeTable_familyF : (opcodeTable.filter fun r => (familyOf r.bits).toNat == 0xF) =
    opcodeRowsHigh.drop 2 ++ [⟨"NOP__family_F__unmapped", 0xF000, 0xF000⟩] := by
  decide

theorem tableRow_familyF {w : Word} (hf : (familyOf w).toNat = 0xF) :
    (tableRow w).map OpcodeRow.mnemonic = some (decodeFamilyF (xOf w) (nnOf w)).mnemonic := by
  rw [tableRow_eq_of_family hf, opcodeTable_familyF]
  unfold decodeFamilyF
  split <;> simp_all [opcodeRowsHigh, holds_family, holds_family_nn, Instr.mnemonic]

/-- Settles O4: the word's family fixes the rows to look at, and its sub-selector the row and the decoder's arm. -/
theorem decodeFollowsTheOpcodeTable : Obligations.DecodeFollowsTheOpcodeTable := by
  intro w
  unfold decode
  split
  case h_1 hf => exact tableRow_family0 hf
  case h_9 hf => exact tableRow_family8 hf
  case h_15 hf => exact tableRow_familyE hf
  case h_16 =>
    have hf : (familyOf w).toNat = 0xF := by
      have hlt := (familyOf w).isLt
      simp only [imp_false] at *
      omega
    exact tableRow_familyF hf
  all_goals next hf => exact tableRow_of_single hf rfl rfl

/-- Settles O1: twelve words, each decoded by the model. -/
theorem opcodeWordsOfTheExamplesDecode : Obligations.OpcodeWordsOfTheExamplesDecode := by
  unfold Obligations.OpcodeWordsOfTheExamplesDecode
  decide

end Sys2Proof.Machine
end

section
/-! SUPPORT. The execute phase of every instruction in normal form: the fault it raises, else its next state, with the
frame of each. -/

namespace Sys2Proof.Machine

/-! ## The words: what the formats say of the encoder, said of words by their nibbles (R82) -/

section
variable {i : Instr} (hwf : i.wf = true)
include hwf

theorem decode_wordA {f : Nibble} {nnn : Addr} (h : encode i = formatA f nnn) :
    decode (wordA f.toNat nnn.toNat) = i := by
  rw [← formatA_eq, ← h, decode_encode hwf]

theorem decode_wordXK {f : Nibble} {x : Reg} {nn : Byte} (h : encode i = formatXK f x nn) :
    decode (wordXK f.toNat x nn.toNat) = i := by
  rw [← formatXK_eq, ← h, decode_encode hwf]

theorem decode_word4 {f : Nibble} {x y : Reg} {n : Nibble} (h : encode i = formatXY f x y n) :
    decode (word4 f.toNat x y n.toNat) = i := by
  rw [← formatXY_eq, ← h, decode_encode hwf]

end

/-! ## Every execute phase ends (R84) -/

/-- Each arm of the dispatch is an execute phase, and an execute phase ends in a next state. -/
theorem exec_total (i : Instr) (s : State) : ∃ t, exec i s = .next t := by
  cases i <;>
    simp only [exec, execCls, execRet, execJp, execCall, execSeByte, execSneByte, execSeReg, execLdByte, execAddByte,
      execLdReg, execOrReg, execAndReg, execXorReg, execAddReg, execSubReg, execShr, execSubnReg, execShl, execSneReg,
      execLdI, execJpV0, execRnd, execDrw, execSkp, execSknp, execLdVxDt, execLdVxK, execLdDtVx, execLdStVx, execAddI,
      execLdF, execLdB, execStoreRegs, execLoadRegs, execNop0, execNop8, execNopE, execNopF, executing_eq,
      Host.Outcome.next.injEq, exists_eq']

/-! ## The next states of the instructions that cannot fault -/

theorem exec_jpV0 (nnn : Addr) (s : State) :
    exec (.jpV0 nnn) s = .next (s.advance.setPc (zextAddr nnn + zextByte (s.reg 0x0))) :=
  rfl

theorem exec_seReg (x y : Reg) (n : Nibble) (s : State) :
    exec (.seReg x y n) s = .next (s.advance.skipIf (s.reg x == s.reg y)) :=
  rfl

theorem exec_sneReg (x y : Reg) (n : Nibble) (s : State) :
    exec (.sneReg x y n) s = .next (s.advance.skipIf (s.reg x != s.reg y)) :=
  rfl

theorem exec_addReg (x y : Reg) (s : State) : exec (.addReg x y) s =
    .next (s.advance.flagThenResult (carryFlag (s.reg x) (s.reg y)) x fun u => u.reg x + u.reg y) :=
  rfl

theorem exec_subReg (x y : Reg) (s : State) : exec (.subReg x y) s =
    .next (s.advance.flagThenResult (notBorrowFlag (s.reg x) (s.reg y)) x fun u => u.reg x - u.reg y) :=
  rfl

theorem exec_shr (x y : Reg) (s : State) : exec (.shr x y) s =
    .next (s.advance.flagThenResult (shrFlag (s.reg x)) x fun u => u.reg x >>> 1) :=
  rfl

theorem exec_subnReg (x y : Reg) (s : State) : exec (.subnReg x y) s =
    .next (s.advance.flagThenResult (notBorrowFlag (s.reg y) (s.reg x)) x fun u => u.reg y - u.reg x) :=
  rfl

theorem exec_shl (x y : Reg) (s : State) : exec (.shl x y) s =
    .next (s.advance.flagThenResult (shlFlag (s.reg x)) x fun u => u.reg x <<< 1) :=
  rfl

theorem exec_rnd (x : Reg) (nn : Byte) (s : State) :
    exec (.rnd x nn) s = .next (s.advance.setReg x (s.rndByte &&& nn)) :=
  rfl

theorem exec_ldVxDt (x : Reg) (s : State) : exec (.ldVxDt x) s = .next (s.advance.setReg x s.dt) :=
  rfl

theorem exec_ldDtVx (x : Reg) (s : State) : exec (.ldDtVx x) s = .next (s.advance.setDt (s.reg x)) :=
  rfl

theorem exec_ldStVx (x : Reg) (s : State) : exec (.ldStVx x) s = .next (s.advance.setSt (s.reg x)) :=
  rfl

/-! ## The stack instructions -/

/-- What RET leaves where the entry it pops is `k` (R111). -/
def State.popped (s : State) (k : Fin 16) : State := { s with sp := k.castSucc, pc := s.stack[k] }

/-- What CALL leaves where the entry it pushes is `k` (R112). -/
def State.pushed (s : State) (k : Fin 16) (target : Word) : State :=
  { s with stack := s.stack.set k (s.pc + 2), sp := k.succ, pc := target }

theorem exec_ret {s : State} {k : Fin 16} (h : s.sp.val = k.val + 1) : exec .ret s = .next (s.popped k) := by
  rcases s.advance.popPc_cases with ⟨h0, _⟩ | ⟨_, hpop⟩
  · rw [State.advance_sp] at h0; omega
  · have hk : s.sp.val - 1 = k.val := by omega
    refine (executing_ok hpop).trans (congrArg Host.Outcome.next ?_)
    simp only [State.popped, State.advance_sp, State.advance_stack, hk]
    rfl

theorem exec_call {s : State} {k : Fin 16} (nnn : Addr) (h : s.sp.val = k.val) :
    exec (.call nnn) s = .next (s.pushed k (zextAddr nnn)) := by
  rcases s.advance.pushPc_cases with ⟨h16, _⟩ | ⟨_, hpush⟩
  · rw [State.advance_sp] at h16; omega
  · rw [exec, execCall, executing_ok (by rw [hpush]; rfl)]
    simp only [State.pushed, State.setPc, State.advance_sp, State.advance_stack, State.advance_pc, h]
    rfl

theorem onlyChanges_popped (s : State) (k : Fin 16) :
    OnlyChanges (fun p => p = .sp ∨ p = .pc) s (s.popped k) := by
  intro p hp
  cases p with
  | sp => exact absurd (.inl rfl) hp
  | pc => exact absurd (.inr rfl) hp
  | _ => rfl

theorem State.pushed_stack (s : State) (k j : Fin 16) (w : Word) :
    (s.pushed k w).stack[j] = if j = k then s.pc + 2 else s.stack[j] := by
  simp only [State.pushed, Fin.getElem_fin, Vector.getElem_set, Fin.ext_iff, eq_comm]

theorem onlyChanges_pushed (s : State) (k : Fin 16) (w : Word) :
    OnlyChanges (fun p => p = .stack k ∨ p = .sp ∨ p = .pc) s (s.pushed k w) := by
  intro p hp
  cases p with
  | stack j => exact (State.pushed_stack s k j w).trans (if_neg fun h => hp (.inl (by rw [h])))
  | sp => exact absurd (.inr (.inl rfl)) hp
  | pc => exact absurd (.inr (.inr rfl)) hp
  | _ => rfl

/-! ## The key skips -/

theorem keyOperand_ok {s : State} {x : Reg} {k : Fin 16} (h : (s.reg x).toNat = k.val) :
    s.keyOperand x = .ok s.key[k] := by
  rcases s.keyOperand_cases x with ⟨_, hop⟩ | ⟨hge, _⟩
  · rw [hop]; simp only [h]; rfl
  · omega

theorem exec_skp {s : State} {x : Reg} {k : Fin 16} (h : (s.reg x).toNat = k.val) :
    exec (.skp x) s = .next (s.advance.skipIf s.key[k]) := by
  rw [exec, execSkp, executing_ok (by rw [keyOperand_ok (s := s.advance) h]; rfl)]
  rfl

theorem exec_sknp {s : State} {x : Reg} {k : Fin 16} (h : (s.reg x).toNat = k.val) :
    exec (.sknp x) s = .next (s.advance.skipIf (!s.key[k])) := by
  rw [exec, execSknp, executing_ok (by rw [keyOperand_ok (s := s.advance) h]; rfl)]
  rfl

/-! ## The memory instructions -/

theorem checkRange_ok {s t : State} {m : Nat} (h : s.i.toNat + m ≤ 0xFFF) : s.checkRange m t = .ok t := by
  rcases s.checkRange_cases m t with ⟨_, hok⟩ | ⟨hgt, _⟩
  · exact hok
  · omega

theorem checkRange_error {s t : State} {m : Nat} (h : s.i.toNat + m > 0xFFF) :
    s.checkRange m t = .error .memoryOutOfRange := by
  rcases s.checkRange_cases m t with ⟨hle, _⟩ | ⟨_, herr⟩
  · omega
  · exact herr

theorem exec_ldB {s : State} (x : Reg) (h : s.i.toNat + 2 ≤ 0xFFF) :
    exec (.ldB x) s = .next (s.advance.writeBytes s.i.toNat (bcdDigits (s.reg x))) := by
  rw [exec, execLdB]
  exact executing_ok (checkRange_ok (s := s.advance) h)

theorem exec_storeRegs {s : State} {x : Reg} (h : s.i.toNat + x.val ≤ 0xFFF) :
    exec (.storeRegs x) s = .next (s.advance.writeBytes s.i.toNat (s.regsThrough x)) := by
  rw [exec, execStoreRegs]
  exact executing_ok (checkRange_ok (s := s.advance) h)

theorem exec_loadRegs {s : State} {x : Reg} (h : s.i.toNat + x.val ≤ 0xFFF) :
    exec (.loadRegs x) s = .next (s.advance.fillRegs (x.val + 1)) := by
  rw [exec, execLoadRegs]
  exact executing_ok (checkRange_ok (s := s.advance) h)

theorem exec_drw {s : State} {n : Nibble} (x y : Reg) (h : n.toNat = 0 ∨ s.i.toNat + (n.toNat - 1) ≤ 0xFFF) :
    exec (.drw x y n) s = .next (s.advance.drawSprite x y n.toNat) := by
  rw [exec, execDrw]
  refine executing_ok ?_
  split
  · next h0 => rw [h0]
  · next h0 => exact checkRange_ok (s := s.advance) (h.resolve_left h0)

/-! ## The faults (R251) -/

theorem maxOffset_drw {x y : Reg} {n : Nibble} {m : Nat} (h : maxOffset (.drw x y n) = some m) :
    n.toNat ≠ 0 ∧ m = n.toNat - 1 := by
  rw [show maxOffset (.drw x y n) = if n = 0 then none else some (n.toNat - 1) from rfl] at h
  split at h
  · cases h
  · next hn => cases h; exact ⟨fun e => hn (BitVec.eq_of_toNat_eq e), rfl⟩

/-- An instruction that raises a fault enters it: the converse of what `exec_cases` says of a fault. -/
theorem exec_of_raises {i : Instr} {s : State} {k : Fault} (h : raises i s k) :
    exec i s = .next (s.takeFault k) := by
  cases k with
  | fetchOutOfRange => exact h.elim
  | stackOverflow =>
    obtain ⟨⟨nnn, rfl⟩, hsp⟩ := h
    rcases s.advance.pushPc_cases with ⟨_, herr⟩ | ⟨hlt, _⟩
    · rw [exec, execCall, executing_error (by rw [herr]; rfl)]
    · rw [State.advance_sp] at hlt; omega
  | stackUnderflow =>
    obtain ⟨rfl, hsp⟩ := h
    rcases s.advance.popPc_cases with ⟨_, herr⟩ | ⟨hne, _⟩
    · exact executing_error herr
    · exact absurd hsp hne
  | memoryOutOfRange =>
    obtain ⟨m, hm, hgt⟩ := h
    have hrange {t : State} : s.advance.checkRange m t = .error .memoryOutOfRange := checkRange_error hgt
    cases i with
    | drw x y n =>
      obtain ⟨h0, rfl⟩ := maxOffset_drw hm
      rw [exec, execDrw, executing_error ((if_neg h0).trans hrange)]
    | ldB x => cases hm; rw [exec, execLdB]; exact executing_error hrange
    | storeRegs x => cases hm; rw [exec, execStoreRegs]; exact executing_error hrange
    | loadRegs x => cases hm; rw [exec, execLoadRegs]; exact executing_error hrange
    | _ => cases hm
  | keyIndexOutOfRange =>
    obtain ⟨x, hi, hgt⟩ := h
    have hkey : s.advance.keyOperand x = .error .keyIndexOutOfRange := by
      rcases s.advance.keyOperand_cases x with ⟨hlt, _⟩ | ⟨_, herr⟩
      · rw [State.reg_congr (State.advance_v s)] at hlt; omega
      · exact herr
    rcases hi with rfl | rfl
    · rw [exec, execSkp, executing_error (by rw [hkey]; rfl)]
    · rw [exec, execSknp, executing_error (by rw [hkey]; rfl)]

/-- An instruction raises at most one fault. -/
theorem raises_unique {i : Instr} {s : State} {k j : Fault} (hk : raises i s k) (hj : raises i s j) : k = j := by
  have h : s.takeFault k = s.takeFault j := by
    have := (exec_of_raises hk).symm.trans (exec_of_raises hj)
    exact Host.Outcome.next.inj this
  exact Option.some.inj (congrArg State.fault h)

end Sys2Proof.Machine
end

section
/-! SUPPORT. What each instruction may write, piece by piece (10_state.md): the frame of every completed execute phase,
said once. -/

namespace Sys2Proof.Machine

/-! ## The pieces an instruction writes -/

/-- The pieces the execute phase of an instruction may write where it completes: the writers the spec names for each
piece (R22, R24, R27 to R33, R60). -/
def writes (i : Instr) (s : State) : Piece → Prop
  | .reg k => writesReg i k
  | .i => (∃ nnn, i = .ldI nnn) ∨ (∃ x, i = .addI x) ∨ ∃ x, i = .ldF x
  | .pc => True
  | .sp => i = .ret ∨ ∃ nnn, i = .call nnn
  | .stack k => k.val = s.sp.val ∧ ∃ nnn, i = .call nnn
  | .dt => ∃ x, i = .ldDtVx x
  | .st => ∃ x, i = .ldStVx x
  | .mem a => ∃ k, maxOffset i = some k ∧ s.i.toNat ≤ a ∧ a ≤ s.i.toNat + k ∧ a ≤ 0xFFF ∧
      ((∃ x, i = .ldB x) ∨ ∃ x, i = .storeRegs x)
  | .pixel _ | .draw => i = .cls ∨ ∃ x y n, i = .drw x y n
  | .key | .fault | .beep | .rndIn | .draws | .cfg => False

section
variable {i : Instr} {s t u : State} {x : Reg} {w : Piece → Prop}

theorem writes_of_pc (p : Piece) (h : p = .pc) : writes i s p := by
  subst h; trivial

theorem writes_of_reg (hx : writesReg i x) (p : Piece) (h : p = .reg x ∨ p = .pc) : writes i s p := by
  rcases h with rfl | rfl
  · exact hx
  · trivial

theorem writes_of_flag (hx : writesReg i x) (hf : writesReg i 0xF) (p : Piece)
    (h : p = .pc ∨ p = .reg x ∨ p = .reg 0xF) : writes i s p := by
  rcases h with rfl | rfl | rfl
  · trivial
  · exact hx
  · exact hf

theorem writes_of_i (hi : (∃ nnn, i = .ldI nnn) ∨ (∃ x, i = .addI x) ∨ ∃ x, i = .ldF x) (p : Piece)
    (h : p = .i ∨ p = .pc) : writes i s p := by
  rcases h with rfl | rfl
  · exact hi
  · trivial

/-- A block write through I stays in the range the check has passed (R64). -/
theorem writes_of_mem {m n : Nat} (hm : maxOffset i = some m) (hrange : s.i.toNat + m ≤ 0xFFF) (hn : n ≤ m + 1)
    (hi : (∃ x, i = .ldB x) ∨ ∃ x, i = .storeRegs x) (p : Piece)
    (h : p = .pc ∨ ∃ k < n, p = .mem (s.i.toNat + k)) : writes i s p := by
  rcases h with rfl | ⟨k, hk, rfl⟩
  · trivial
  · exact ⟨m, hm, by omega, by omega, by omega, hi⟩

/-- A change after the advance changes PC as well. -/
theorem onlyChanges_after_advance (h : OnlyChanges w s.advance t) : OnlyChanges (fun p => p = .pc ∨ w p) s t :=
  ((onlyChanges_advance s).mono fun _ => .inl).trans (h.mono fun _ => .inr)

/-- The frame of the next state an instruction is known to have, as a frame of what its execute phase answers. -/
theorem exec_frame_of (hexec : exec i s = .next u) (hframe : OnlyChanges w s u) (hw : ∀ p, w p → writes i s p)
    (h : exec i s = .next t) : OnlyChanges (writes i s) s t := by
  rw [hexec] at h
  cases h
  exact hframe.mono hw

end

@[simp] theorem bcdDigits_length (b : Byte) : (bcdDigits b).length = 3 := rfl

@[simp] theorem State.regsThrough_length (s : State) (x : Reg) : (s.regsThrough x).length = x.val + 1 := by
  have hx : x.val + 1 ≤ 16 := x.isLt
  simp only [State.regsThrough, List.length_take, Vector.length_toList]
  omega

/-! ## The frame of a completed execute phase -/

/-- An entry of the stack for RET to pop, where it does not underflow. -/
theorem exists_entry_of_not_raises_ret {s : State} (h : ∀ k, ¬ raises .ret s k) : ∃ k : Fin 16, s.sp.val = k.val + 1 := by
  have h0 : s.sp.val ≠ 0 := fun e => h .stackUnderflow ⟨rfl, e⟩
  exact ⟨⟨s.sp.val - 1, by omega⟩, by simp only; omega⟩

/-- A free entry of the stack for CALL to push, where it does not overflow. -/
theorem exists_entry_of_not_raises_call {s : State} {nnn : Addr} (h : ∀ k, ¬ raises (.call nnn) s k) :
    ∃ k : Fin 16, s.sp.val = k.val := by
  have h16 : s.sp.val ≠ 16 := fun e => h .stackOverflow ⟨⟨nnn, rfl⟩, e⟩
  exact ⟨⟨s.sp.val, by omega⟩, rfl⟩

/-- The key a key skip tests, where its number is in range. -/
theorem exists_key_of_not_raises {i : Instr} {s : State} {x : Reg} (hi : i = .skp x ∨ i = .sknp x)
    (h : ∀ k, ¬ raises i s k) : ∃ k : Fin 16, (s.reg x).toNat = k.val := by
  have hlt : ¬ (s.reg x).toNat > 0xF := fun e => h .keyIndexOutOfRange ⟨x, hi, e⟩
  exact ⟨⟨(s.reg x).toNat, by omega⟩, rfl⟩

/-- The range of a memory instruction that does not fault (R64). -/
theorem inRange_of_not_raises {i : Instr} {s : State} {m : Nat} (hm : maxOffset i = some m)
    (h : ∀ k, ¬ raises i s k) : s.i.toNat + m ≤ 0xFFF :=
  Nat.le_of_not_gt fun e => h .memoryOutOfRange ⟨m, hm, e⟩

/-- The range of DXYN where it does not fault: N = 0 accesses no memory. -/
theorem inRange_of_not_raises_drw {s : State} {x y : Reg} {n : Nibble} (h : ∀ k, ¬ raises (.drw x y n) s k) :
    n.toNat = 0 ∨ s.i.toNat + (n.toNat - 1) ≤ 0xFFF := by
  by_cases hn : n = 0
  · exact .inl (by rw [hn]; rfl)
  · have hm : maxOffset (.drw x y n) = some (n.toNat - 1) := if_neg hn
    exact .inr (inRange_of_not_raises hm h)

/-- An execute phase that raises no fault writes only the pieces of its instruction. -/
theorem exec_frame {i : Instr} {s t : State} (hok : ∀ k, ¬ raises i s k) (h : exec i s = .next t) :
    OnlyChanges (writes i s) s t := by
  cases i with
  | cls =>
    refine exec_frame_of (exec_cls s) (onlyChanges_advance_clearDisplay_setDraw s true) ?_ h
    rintro _ (rfl | rfl | ⟨k, rfl⟩)
    · trivial
    · exact .inl rfl
    · exact .inl rfl
  | ret =>
    obtain ⟨k, hk⟩ := exists_entry_of_not_raises_ret hok
    refine exec_frame_of (exec_ret hk) (onlyChanges_popped s k) ?_ h
    rintro _ (rfl | rfl)
    · exact .inl rfl
    · trivial
  | call nnn =>
    obtain ⟨k, hk⟩ := exists_entry_of_not_raises_call hok
    refine exec_frame_of (exec_call nnn hk) (onlyChanges_pushed s k _) ?_ h
    rintro _ (rfl | rfl | rfl)
    · exact ⟨hk.symm, nnn, rfl⟩
    · exact .inr ⟨nnn, rfl⟩
    · trivial
  | jp nnn => exact exec_frame_of (exec_jp nnn s) (onlyChanges_advance_setPc s _) writes_of_pc h
  | jpV0 nnn => exact exec_frame_of (exec_jpV0 nnn s) (onlyChanges_advance_setPc s _) writes_of_pc h
  | seByte x nn => exact exec_frame_of (exec_seByte x nn s) (onlyChanges_advance_skipIf s _) writes_of_pc h
  | sneByte x nn => exact exec_frame_of (exec_sneByte x nn s) (onlyChanges_advance_skipIf s _) writes_of_pc h
  | seReg x y n => exact exec_frame_of (exec_seReg x y n s) (onlyChanges_advance_skipIf s _) writes_of_pc h
  | sneReg x y n => exact exec_frame_of (exec_sneReg x y n s) (onlyChanges_advance_skipIf s _) writes_of_pc h
  | skp x =>
    obtain ⟨k, hk⟩ := exists_key_of_not_raises (.inl rfl) hok
    exact exec_frame_of (exec_skp hk) (onlyChanges_advance_skipIf s _) writes_of_pc h
  | sknp x =>
    obtain ⟨k, hk⟩ := exists_key_of_not_raises (.inr rfl) hok
    exact exec_frame_of (exec_sknp hk) (onlyChanges_advance_skipIf s _) writes_of_pc h
  | ldByte x nn => exact exec_frame_of (exec_ldByte x nn s) (onlyChanges_advance_setReg s x _) (writes_of_reg rfl) h
  | addByte x nn => exact exec_frame_of (exec_addByte x nn s) (onlyChanges_advance_setReg s x _) (writes_of_reg rfl) h
  | ldReg x y => exact exec_frame_of (exec_ldReg x y s) (onlyChanges_advance_setReg s x _) (writes_of_reg rfl) h
  | orReg x y => exact exec_frame_of (exec_orReg x y s) (onlyChanges_advance_setReg s x _) (writes_of_reg rfl) h
  | andReg x y => exact exec_frame_of (exec_andReg x y s) (onlyChanges_advance_setReg s x _) (writes_of_reg rfl) h
  | xorReg x y => exact exec_frame_of (exec_xorReg x y s) (onlyChanges_advance_setReg s x _) (writes_of_reg rfl) h
  | rnd x nn => exact exec_frame_of (exec_rnd x nn s) (onlyChanges_advance_setReg s x _) (writes_of_reg rfl) h
  | ldVxDt x => exact exec_frame_of (exec_ldVxDt x s) (onlyChanges_advance_setReg s x _) (writes_of_reg rfl) h
  | ldVxK x =>
    cases hkey : s.firstKey with
    | some k =>
      exact exec_frame_of (exec_ldVxK_of_firstKey_some x hkey) (onlyChanges_advance_setReg s x _) (writes_of_reg rfl) h
    | none => exact exec_frame_of (exec_ldVxK_of_firstKey_none x hkey) (.refl _ s) writes_of_pc h
  | addReg x y =>
    exact exec_frame_of (exec_addReg x y s) (onlyChanges_after_advance (onlyChanges_flagThenResult _ _ _ _))
      (writes_of_flag (.inl rfl) (.inr rfl)) h
  | subReg x y =>
    exact exec_frame_of (exec_subReg x y s) (onlyChanges_after_advance (onlyChanges_flagThenResult _ _ _ _))
      (writes_of_flag (.inl rfl) (.inr rfl)) h
  | shr x y =>
    exact exec_frame_of (exec_shr x y s) (onlyChanges_after_advance (onlyChanges_flagThenResult _ _ _ _))
      (writes_of_flag (.inl rfl) (.inr rfl)) h
  | subnReg x y =>
    exact exec_frame_of (exec_subnReg x y s) (onlyChanges_after_advance (onlyChanges_flagThenResult _ _ _ _))
      (writes_of_flag (.inl rfl) (.inr rfl)) h
  | shl x y =>
    exact exec_frame_of (exec_shl x y s) (onlyChanges_after_advance (onlyChanges_flagThenResult _ _ _ _))
      (writes_of_flag (.inl rfl) (.inr rfl)) h
  | ldI nnn =>
    exact exec_frame_of (exec_ldI nnn s) (onlyChanges_advance_setI s _) (writes_of_i (.inl ⟨nnn, rfl⟩)) h
  | addI x => exact exec_frame_of (exec_addI x s) (onlyChanges_advance_setI s _) (writes_of_i (.inr (.inl ⟨x, rfl⟩))) h
  | ldF x => exact exec_frame_of (exec_ldF x s) (onlyChanges_advance_setI s _) (writes_of_i (.inr (.inr ⟨x, rfl⟩))) h
  | ldDtVx x =>
    refine exec_frame_of (exec_ldDtVx x s) (onlyChanges_after_advance (onlyChanges_setDt _ _)) ?_ h
    rintro _ (rfl | rfl)
    · trivial
    · exact ⟨x, rfl⟩
  | ldStVx x =>
    refine exec_frame_of (exec_ldStVx x s) (onlyChanges_after_advance (onlyChanges_setSt _ _)) ?_ h
    rintro _ (rfl | rfl)
    · trivial
    · exact ⟨x, rfl⟩
  | drw x y n =>
    refine exec_frame_of (exec_drw x y (inRange_of_not_raises_drw hok))
      (onlyChanges_after_advance (onlyChanges_drawSprite _ _ _ _)) ?_ h
    rintro _ (rfl | rfl | rfl | ⟨k, rfl⟩)
    · trivial
    · exact .inr ⟨x, y, n, rfl⟩
    · exact rfl
    · exact .inr ⟨x, y, n, rfl⟩
  | ldB x =>
    have hrange := inRange_of_not_raises rfl hok
    exact exec_frame_of (exec_ldB x hrange) (onlyChanges_after_advance (onlyChanges_writeBytes _ _ _))
      (writes_of_mem rfl hrange (by simp) (.inl ⟨x, rfl⟩)) h
  | storeRegs x =>
    have hrange := inRange_of_not_raises rfl hok
    exact exec_frame_of (exec_storeRegs hrange) (onlyChanges_after_advance (onlyChanges_writeBytes _ _ _))
      (writes_of_mem rfl hrange (by simp) (.inr ⟨x, rfl⟩)) h
  | loadRegs x =>
    refine exec_frame_of (exec_loadRegs (inRange_of_not_raises rfl hok))
      (onlyChanges_after_advance (onlyChanges_fillRegs _ x.isLt)) ?_ h
    rintro _ (rfl | ⟨k, hk, rfl⟩)
    · trivial
    · exact Fin.le_def.mpr (Nat.le_of_lt_succ hk)
  | nop0 nnn => exact exec_frame_of (exec_nop0 nnn s) (onlyChanges_advance s) writes_of_pc h
  | nop8 x y n => exact exec_frame_of (exec_nop8 x y n s) (onlyChanges_advance s) writes_of_pc h
  | nopE x nn => exact exec_frame_of (exec_nopE x nn s) (onlyChanges_advance s) writes_of_pc h
  | nopF x nn => exact exec_frame_of (exec_nopF x nn s) (onlyChanges_advance s) writes_of_pc h

/-- Inversion of the execute phase with its frame: it enters the fault it raises, or it raises none and writes only the
pieces of its instruction. -/
theorem exec_inversion {i : Instr} {s t : State} (h : exec i s = .next t) :
    (∃ k, raises i s k ∧ t = s.takeFault k) ∨ ((∀ k, ¬ raises i s k) ∧ OnlyChanges (writes i s) s t) := by
  by_cases hr : ∃ k, raises i s k
  · obtain ⟨k, hk⟩ := hr
    rw [exec_of_raises hk] at h
    cases h
    exact .inl ⟨k, hk, rfl⟩
  · have hok : ∀ k, ¬ raises i s k := fun k hk => hr ⟨k, hk⟩
    exact .inr ⟨hok, exec_frame hok h⟩

/-- A piece the instruction does not write keeps its content, whether the execute phase completes or faults. -/
theorem exec_same {i : Instr} {s t : State} {p : Piece} (h : exec i s = .next t) (hp : ¬ writes i s p)
    (hfault : p ≠ .fault) (hbeep : p ≠ .beep) : p.same s t := by
  rcases exec_inversion h with ⟨k, _, rfl⟩ | ⟨_, hframe⟩
  · cases p with
    | fault => exact absurd rfl hfault
    | beep => exact absurd rfl hbeep
    | _ => rfl
  · exact hframe p hp

/-! ## The statements -/

/-- Settles O8: the execute phase ends, and so does each of the three things a step can do. -/
theorem everyStepEndsInANextState : Obligations.EveryStepEndsInANextState := by
  refine ⟨exec_total, fun s => ?_⟩
  cases hf : s.fault with
  | some k => exact ⟨_, step_stuck hf⟩
  | none =>
    by_cases hp : s.pc.toNat ≤ 0xFFE
    · obtain ⟨t, ht⟩ := exec_total (decode s.opcodeAtPc) s
      exact ⟨_, step_of_runs ⟨hf, hp, rfl⟩ ht⟩
    · exact ⟨_, step_fetchFault hf (by omega)⟩

/-- Settles O47: the table of the registers an instruction writes is that of `writes`. -/
theorem registersChangeOnlyAsTheAccessTableSays : Obligations.RegistersChangeOnlyAsTheAccessTableSays :=
  fun _ _ _ k h hk => exec_same (p := .reg k) h hk nofun nofun

/-- Settles O48: each clause is the frame of the execute phase at its piece, read backwards. -/
theorem eachPieceChangesOnlyInItsWriters : Obligations.EachPieceChangesOnlyInItsWriters := by
  intro i s t h
  have written {p : Piece} (hne : ¬ p.same s t) (hfault : p ≠ .fault) (hbeep : p ≠ .beep) : writes i s p :=
    by_contra fun hp => hne (exec_same h hp hfault hbeep)
  exact ⟨exec_same (p := .key) h id nofun nofun, exec_same (p := .cfg) h id nofun nofun,
    exec_same (p := .rndIn) h id nofun nofun, exec_same (p := .draws) h id nofun nofun,
    fun hne => written (p := .i) hne nofun nofun,
    fun hne => written (p := .sp) hne nofun nofun,
    fun k hne => written (p := .stack k) hne nofun nofun,
    fun hne => written (p := .dt) hne nofun nofun,
    fun hne => written (p := .st) hne nofun nofun,
    fun a hne => written (p := .mem a) hne nofun nofun,
    fun k hne => written (p := .pixel k) hne nofun nofun⟩

end Sys2Proof.Machine
end

section
/-! SUPPORT. Control transfer, keys, timers and RND (40_control_flow.md, 44_timers_keypad.md, 41_alu.md section 4): the
statements on single instructions, from their next states. -/

namespace Sys2Proof.Machine

/-! ## The stack -/

/-- Settles O16: at SP = 0 RET raises its fault, and at SP = k + 1 its next state is `State.popped k`. -/
theorem returnPopsTheStackOrFaults : Obligations.ReturnPopsTheStackOrFaults := by
  have hdecode : decode 0x00EE = .ret := by decide
  exact ⟨hdecode, fun s =>
    ⟨fun h => exec_of_raises (k := .stackUnderflow) ⟨rfl, h⟩,
      fun k hk => ⟨_, exec_ret hk, rfl, rfl, onlyChanges_popped s k⟩⟩⟩

/-- Settles O17: at SP = 16 CALL raises its fault, and at SP = k its next state is `State.pushed k`. -/
theorem callPushesTheNextAddressOrFaults : Obligations.CallPushesTheNextAddressOrFaults := by
  intro nnn s
  refine ⟨decode_wordA (f := 0x2) rfl rfl, fun h => exec_of_raises (k := .stackOverflow) ⟨⟨nnn, rfl⟩, h⟩, fun k hk => ?_⟩
  have hentry : (s.pushed k (zextAddr nnn)).stack[k] = s.pc + 2 := by rw [State.pushed_stack, if_pos rfl]
  exact ⟨_, exec_call nnn hk, hentry, rfl, zextAddr_toNat nnn, onlyChanges_pushed s k _⟩

/-- Settles O18: RET pops the entry CALL has pushed, so SP is back and only that entry and PC differ. -/
theorem callThenReturnResumesAfterTheCall : Obligations.CallThenReturnResumesAfterTheCall := by
  intro nnn s k hk
  have hsp : (s.pushed k (zextAddr nnn)).sp.val = k.val + 1 := rfl
  refine ⟨_, _, exec_call nnn hk, exec_ret hsp, by rw [State.popped, State.pushed_stack, if_pos rfl], fun p hp => ?_⟩
  cases p with
  | sp => exact Fin.ext hk.symm
  | stack j => exact (State.pushed_stack s k j (zextAddr nnn)).trans (if_neg fun e => hp (.inl (by rw [e])))
  | pc => exact absurd (.inr rfl) hp
  | _ => rfl

/-! ## Jumps and skips -/

/-- Settles O20: NNN + V0 is below 0x10000, so the 16-bit sum is exact. -/
theorem jumpWithOffsetIsNotMasked : Obligations.JumpWithOffsetIsNotMasked := by
  intro nnn s
  have hsum : (zextAddr nnn + zextByte (s.reg 0x0)).toNat = nnn.toNat + (s.reg 0x0).toNat := by
    have hnnn := nnn.isLt
    have hv0 := (s.reg 0x0).isLt
    rw [add_zextByte_toNat, zextAddr_toNat]
    omega
  exact ⟨decode_wordA (f := 0xB) rfl rfl, _, exec_jpV0 nnn s, hsum, onlyChanges_advance_setPc s _⟩

/-- Settles O22: each skip's next state is a `skipIf` after the advance, on the two registers equal or not equal. -/
theorem skipsCompareTwoRegisters : Obligations.SkipsCompareTwoRegisters := by
  intro x y n s
  refine ⟨decode_word4 (f := 0x5) rfl rfl, decode_word4 (f := 0x9) rfl rfl,
    ⟨_, exec_seReg x y n s, ?_, onlyChanges_advance_skipIf s _⟩,
    _, exec_sneReg x y n s, ?_, onlyChanges_advance_skipIf s _⟩
  · simp only [State.skipIf_advance_pc, beq_iff_eq, BitVec.toNat_inj]
  · simp only [State.skipIf_advance_pc, bne_iff_ne, BitVec.toNat_inj, ne_eq, ite_not]

/-- Settles O43: above 0xF both key skips raise their fault, else each is a `skipIf` on the level of the key. -/
theorem keySkipsTestTheKeyLevelOrFault : Obligations.KeySkipsTestTheKeyLevelOrFault := by
  intro x s
  refine ⟨decode_wordXK (f := 0xE) (nn := 0x9E) rfl rfl, decode_wordXK (f := 0xE) (nn := 0xA1) rfl rfl,
    fun h => ⟨exec_of_raises (k := .keyIndexOutOfRange) ⟨x, .inl rfl, h⟩,
      exec_of_raises (k := .keyIndexOutOfRange) ⟨x, .inr rfl, h⟩⟩,
    fun k hk => ⟨⟨_, exec_skp hk, State.skipIf_advance_pc .., onlyChanges_advance_skipIf s _⟩,
      _, exec_sknp hk, ?_, onlyChanges_advance_skipIf s _⟩⟩
  rw [State.skipIf_advance_pc]
  cases s.key[k] <;> rfl

/-! ## Timer transfers -/

/-- The end of a completed step keeps the registers. -/
theorem State.endStep_reg {t : State} (h : t.fault = none) (x : Reg) : t.endStep.reg x = t.reg x := by
  rw [State.endStep_completed h]
  rfl

/-- Settles O44: each transfer is one field update after the advance, and its step ends in `State.endStep` of that. -/
theorem timerTransfersAndTheirOwnStep : Obligations.TimerTransfersAndTheirOwnStep := by
  intro x s
  refine ⟨decode_wordXK (f := 0xF) (nn := 0x07) rfl rfl, decode_wordXK (f := 0xF) (nn := 0x15) rfl rfl,
    decode_wordXK (f := 0xF) (nn := 0x18) rfl rfl, exec_setReg_spec (exec_ldVxDt x s),
    ⟨_, exec_ldDtVx x s, rfl, rfl, (onlyChanges_after_advance (onlyChanges_setDt _ _)).mono fun _ => Or.symm⟩,
    ⟨_, exec_ldStVx x s, rfl, rfl, (onlyChanges_after_advance (onlyChanges_setSt _ _)).mono fun _ => Or.symm⟩,
    fun hrun => ?_, fun hrun => ?_, fun hrun => ?_⟩
  · have hfault : (s.advance.setReg x s.dt).fault = none := hrun.1
    obtain ⟨hdt, _, _⟩ := State.endStep_counts hfault
    have hreg : (s.advance.setReg x s.dt).endStep.reg x = s.dt := by
      rw [State.endStep_reg hfault, State.reg_setReg_same]
    exact ⟨_, step_of_runs hrun (exec_ldVxDt x s), hreg, hdt⟩
  · have hfault : (s.advance.setDt (s.reg x)).fault = none := hrun.1
    obtain ⟨hdt, _, _⟩ := State.endStep_counts hfault
    exact ⟨_, step_of_runs hrun (exec_ldDtVx x s), hdt⟩
  · have hfault : (s.advance.setSt (s.reg x)).fault = none := hrun.1
    obtain ⟨_, hst, hbeep⟩ := State.endStep_counts hfault
    exact ⟨_, step_of_runs hrun (exec_ldStVx x s), hst, hbeep⟩

/-! ## RND -/

theorem State.rndByte_of_cons {s : State} {b : Byte} {rest : List Byte} (h : s.rndIn = b :: rest) :
    s.rndByte = b := by
  unfold State.rndByte
  rw [h]

/-- Settles O29: the byte is `State.rndByte`, which a Step of the host has put first. -/
theorem randomByteIsMaskedByTheImmediate : Obligations.RandomByteIsMaskedByTheImmediate := by
  intro x nn s
  obtain ⟨t, hexec, hreg, hpc, hframe⟩ := exec_setReg_spec (exec_rnd x nn s)
  refine ⟨decode_wordXK (f := 0xC) rfl rfl, t, s.rndByte, fun b rest => State.rndByte_of_cons, hexec, hreg, hpc, hframe,
    fun rnd hrun => ?_⟩
  have hrun' : State.runs { s with rndIn := rnd :: s.rndIn } (.rnd x nn) := hrun
  refine ⟨_, step_of_runs hrun' (exec_rnd x nn _), (State.endStep_reg ?_ x).trans (State.reg_setReg_same _ x _)⟩
  exact hrun.1

end Sys2Proof.Machine
end

section
/-! SUPPORT. The flag-setting instructions (41_alu.md sections 2 and 5): the flag as a number, and V[X] from the registers
as they stand after the flag is written. -/

namespace Sys2Proof.Machine

/-! ## Flags and registers as numbers -/

theorem flagByte_toNat (c : Prop) [Decidable c] : (flagByte (decide c)).toNat = bit c := by
  unfold bit
  by_cases h : c <;> simp [flagByte, h]

theorem carryFlag_toNat (a b : Byte) : (carryFlag a b).toNat = bit (a.toNat + b.toNat > 255) :=
  flagByte_toNat _

theorem notBorrowFlag_toNat (a b : Byte) : (notBorrowFlag a b).toNat = bit (b.toNat ≤ a.toNat) := by
  have h : (!decide (b.toNat > a.toNat)) = decide (b.toNat ≤ a.toNat) := by
    rw [← decide_not]
    exact decide_eq_decide.mpr Nat.not_lt
  rw [notBorrowFlag, h, flagByte_toNat]

theorem shrFlag_toNat (a : Byte) : (shrFlag a).toNat = a.toNat % 2 := by
  rw [shrFlag, BitVec.toNat_and]
  exact Nat.and_one_is_mod _

theorem shlFlag_toNat (a : Byte) : (shlFlag a).toNat = a.toNat / 128 := by
  rw [shlFlag, BitVec.toNat_ushiftRight, Nat.shiftRight_eq_div_pow]

/-- A register as the second statement of a flag-setting row reads it (R153). -/
theorem State.reg_afterFlag (s : State) (b : Byte) (k : Reg) :
    ((s.advance.setReg .vf b).reg k).toNat = s.regAfterFlag b.toNat k := by
  rw [State.reg_setReg, State.regAfterFlag]
  by_cases h : k = 0xF
  · rw [if_pos h, if_pos h]
  · rw [if_neg h, if_neg h]
    rfl

/-- What a flag-setting instruction leaves, as numbers: the flag in VF, the result in V[X], and the frame. -/
theorem exec_flag_spec {i : Instr} {s : State} {x : Reg} {flag : Byte} {result : State → Byte} {f n : Nat}
    (h : exec i s = .next (s.advance.flagThenResult flag x result)) (hf : flag.toNat = f)
    (hn : (result (s.advance.setReg .vf flag)).toNat = n) :
    ∃ t, exec i s = .next t ∧ (x ≠ 0xF → (t.reg 0xF).toNat = f) ∧ (t.reg x).toNat = n ∧ t.pc = s.pc + 2 ∧
      OnlyChanges (fun p => p = .reg x ∨ p = .reg 0xF ∨ p = .pc) s t := by
  refine ⟨_, h, fun hx => ?_, ?_, rfl, ?_⟩
  · rw [State.reg_flagThenResult, if_neg hx.symm, if_pos rfl, hf]
  · rw [State.reg_flagThenResult, if_pos rfl, hn]
  · refine (onlyChanges_after_advance (onlyChanges_flagThenResult _ _ _ _)).mono ?_
    rintro p (hp | hp | hp)
    · exact .inr (.inr hp)
    · exact .inl hp
    · exact .inr (.inl hp)

/-! ## The statements -/

/-- Settles O25: the sum of two bytes is taken modulo 256, of the registers after the carry is written. -/
theorem addRegistersSetsTheCarryFirst : Obligations.AddRegistersSetsTheCarryFirst := by
  rintro x y s f rfl
  refine ⟨decode_word4_family8 x y (by decide), exec_flag_spec (exec_addReg x y s) (carryFlag_toNat ..) ?_⟩
  rw [BitVec.toNat_add, State.reg_afterFlag, State.reg_afterFlag, carryFlag_toNat]

/-- A difference of bytes as the spec writes it. -/
theorem toNat_sub_byte (a b : Byte) : (a - b).toNat = (256 + a.toNat - b.toNat) % 256 := by
  have hb := b.isLt
  rw [BitVec.toNat_sub]
  omega

/-- Settles O26: the difference of two bytes is taken modulo 256, of the registers after the not-borrow is written. -/
theorem subtractionsSetTheNotBorrowFirst : Obligations.SubtractionsSetTheNotBorrowFirst := by
  rintro x y s f g rfl rfl
  refine ⟨decode_word4_family8 x y (by decide), decode_word4_family8 x y (by decide),
    exec_flag_spec (exec_subReg x y s) (notBorrowFlag_toNat ..) ?_,
    exec_flag_spec (exec_subnReg x y s) (notBorrowFlag_toNat ..) ?_⟩
  · rw [toNat_sub_byte, State.reg_afterFlag, State.reg_afterFlag, notBorrowFlag_toNat]
  · rw [toNat_sub_byte, State.reg_afterFlag, State.reg_afterFlag, notBorrowFlag_toNat]

/-- Settles O27: a shift by one halves or doubles the register after the bit shifted out is written. -/
theorem shiftsSetTheBitShiftedOutFirst : Obligations.ShiftsSetTheBitShiftedOutFirst := by
  intro x y s
  refine ⟨decode_word4_family8 x y (by decide), decode_word4_family8 x y (by decide),
    exec_flag_spec (exec_shr x y s) (shrFlag_toNat _) ?_, exec_flag_spec (exec_shl x y s) (shlFlag_toNat _) ?_⟩
  · rw [BitVec.toNat_ushiftRight, Nat.shiftRight_eq_div_pow, State.reg_afterFlag, shrFlag_toNat]
  · rw [BitVec.toNat_shiftLeft, Nat.shiftLeft_eq, State.reg_afterFlag, shlFlag_toNat, Nat.mul_comm]

@[simp] theorem State.regAfterFlag_vf (s : State) (f : Nat) : s.regAfterFlag f 0xF = f := if_pos rfl

theorem State.regAfterFlag_of_ne {r : Reg} (hr : r ≠ 0xF) (s : State) (f : Nat) :
    s.regAfterFlag f r = (s.reg r).toNat := if_neg hr

theorem bit_le_eq (a b : Nat) : bit (a ≤ b) = if a > b then 0 else 1 := by
  unfold bit
  split <;> split <;> omega

/-- What a flag-setting instruction leaves in V[X] and in VF. -/
theorem leaves_of_flag_spec {i : Instr} {s : State} {x : Reg} {f n : Nat} {P : State → Prop}
    (h : ∃ t, exec i s = .next t ∧ (x ≠ 0xF → (t.reg 0xF).toNat = f) ∧ (t.reg x).toNat = n ∧ P t) :
    Leaves i s x n ∧ (x ≠ 0xF → Leaves i s 0xF f) := by
  obtain ⟨t, hexec, hf, hn, _⟩ := h
  exact ⟨⟨t, hexec, hn⟩, fun hx => ⟨t, hexec, hf hx⟩⟩

/-- Settles O28: each row is O25, O26 or O27 with F among the operands, so that `State.regAfterFlag` reads the flag for F
and the register itself for the other. -/
theorem flagInstructionsOnVfAsTabulated : Obligations.FlagInstructionsOnVfAsTabulated := by
  rintro s r f v hr rfl rfl
  have add (x y) := leaves_of_flag_spec (addRegistersSetsTheCarryFirst x y s _ rfl).2
  have sub (x y) := leaves_of_flag_spec (subtractionsSetTheNotBorrowFirst x y s _ _ rfl rfl).2.2.1
  have subn (x y) := leaves_of_flag_spec (subtractionsSetTheNotBorrowFirst x y s _ _ rfl rfl).2.2.2
  have shr (y) := leaves_of_flag_spec (shiftsSetTheBitShiftedOutFirst 0xF y s).2.2.1
  have shl (y) := leaves_of_flag_spec (shiftsSetTheBitShiftedOutFirst 0xF y s).2.2.2
  have hvf := (s.reg 0xF).isLt
  simp only [bit_le_eq] at sub subn
  refine ⟨?_, ⟨(add r 0xF).2 hr, ?_⟩, ?_, ?_, ⟨(sub r 0xF).2 hr, ?_⟩, ?_, fun y => ?_, ?_, ⟨(subn r 0xF).2 hr, ?_⟩, ?_,
    fun y => ?_⟩
  · have h := (add 0xF r).1
    rwa [State.regAfterFlag_vf, State.regAfterFlag_of_ne hr] at h
  · have h := (add r 0xF).1
    rwa [State.regAfterFlag_vf, State.regAfterFlag_of_ne hr] at h
  · have h := (add 0xF 0xF).1
    have hbit : bit ((s.reg 0xF).toNat + (s.reg 0xF).toNat > 255) ≤ 1 := by unfold bit; split <;> omega
    rwa [State.regAfterFlag_vf, Nat.mod_eq_of_lt (by omega), ← Nat.two_mul, ← Nat.two_mul] at h
  · have h := (sub 0xF r).1
    rwa [State.regAfterFlag_vf, State.regAfterFlag_of_ne hr] at h
  · have h := (sub r 0xF).1
    rwa [State.regAfterFlag_vf, State.regAfterFlag_of_ne hr] at h
  · have h := (sub 0xF 0xF).1
    rwa [State.regAfterFlag_vf, Nat.add_sub_cancel] at h
  · have h := (shr y).1
    rwa [State.regAfterFlag_vf, Nat.div_eq_of_lt (Nat.mod_lt _ (by decide))] at h
  · have h := (subn 0xF r).1
    rwa [State.regAfterFlag_vf, State.regAfterFlag_of_ne hr] at h
  · have h := (subn r 0xF).1
    rwa [State.regAfterFlag_vf, State.regAfterFlag_of_ne hr] at h
  · have h := (subn 0xF 0xF).1
    rwa [State.regAfterFlag_vf, Nat.add_sub_cancel] at h
  · have h := (shl y).1
    rwa [State.regAfterFlag_vf, Nat.mod_eq_of_lt (by omega)] at h

end Sys2Proof.Machine
end

section
/-! SUPPORT. The step as a whole (30_encoding.md section 3, 60_exceptions.md): its faults, PC after it, the timers over
many steps. -/

namespace Sys2Proof.Machine

/-! ## The fault of an execute phase and of a step (R251) -/

section
variable {i : Instr} {s t u : State} {k : Fault}

/-- The execute phase leaves a fault of kind `k` exactly where its instruction raises one. -/
theorem exec_fault_iff (hs : s.fault = none) (h : exec i s = .next t) : t.fault = some k ↔ raises i s k := by
  rcases exec_inversion h with ⟨j, hj, rfl⟩ | ⟨hok, hframe⟩
  · constructor
    · intro e
      cases e
      exact hj
    · intro hk
      rw [raises_unique hk hj]
      rfl
  · have hfault : t.fault = none := (hframe .fault id).trans hs
    exact iff_of_false (by rw [hfault]; nofun) (hok k)

theorem not_raises_of_fault_eq_none (hs : s.fault = none) (h : exec i s = .next t) (ht : t.fault = none) (k : Fault) :
    ¬ raises i s k := by
  rw [← exec_fault_iff hs h, ht]
  nofun

/-- A step leaves a fault of kind `k` exactly where its fetch or the instruction it runs raises one. -/
theorem step_fault_iff (hs : s.fault = none) (h : step s = .next u) :
    u.fault = some k ↔ (k = .fetchOutOfRange ∧ s.pc.toNat > 0xFFE) ∨ ∃ i, s.runs i ∧ raises i s k := by
  rcases step_cases h with ⟨j, hj, _⟩ | ⟨_, hpc, rfl⟩ | ⟨_, hpc, t, hexec, rfl⟩
  · rw [hs] at hj; cases hj
  · constructor
    · intro e
      cases e
      exact .inl ⟨rfl, hpc⟩
    · rintro (⟨rfl, _⟩ | ⟨i, ⟨_, hle, _⟩, _⟩)
      · rfl
      · omega
  · rw [State.endStep_fault, exec_fault_iff hs hexec]
    constructor
    · exact fun hk => .inr ⟨_, ⟨hs, hpc, rfl⟩, hk⟩
    · rintro (⟨_, hgt⟩ | ⟨i, ⟨_, _, rfl⟩, hk⟩)
      · omega
      · exact hk

/-- A step that runs `i` and ends without a fault is a completed execute phase and the end of the step. -/
theorem completed_of_runs (hrun : s.runs i) (hstep : step s = .next u) (hu : u.fault = none) :
    ∃ t, exec i s = .next t ∧ t.fault = none ∧ (∀ k, ¬ raises i s k) ∧ u = t.endStep := by
  obtain ⟨t, hexec⟩ := exec_total i s
  rw [step_of_runs hrun hexec] at hstep
  cases hstep
  have ht : t.fault = none := (State.endStep_fault t).symm.trans hu
  exact ⟨t, hexec, ht, not_raises_of_fault_eq_none hrun.1 hexec ht, rfl⟩

/-- A step that ends without a fault has run the instruction at PC. -/
theorem runs_of_step (hs : s.fault = none) (hstep : step s = .next u) (hu : u.fault = none) :
    s.runs (decode s.opcodeAtPc) := by
  rcases step_cases hstep with ⟨j, hj, _⟩ | ⟨_, _, rfl⟩ | ⟨_, hpc, _⟩
  · rw [hs] at hj; cases hj
  · cases hu
  · exact ⟨hs, hpc, rfl⟩

end

/-- Settles O13: a fetch fault is `State.takeFault` of the state before the step, and so is what a faulting execute phase
leaves; the end of a faulting step takes the input only. -/
theorem faultingStepIsDiscarded : Obligations.FaultingStepIsDiscarded := by
  intro s u k hs hstep hu
  rcases step_cases hstep with ⟨j, hj, _⟩ | ⟨_, _, rfl⟩ | ⟨_, _, t, hexec, rfl⟩
  · rw [hs] at hj; cases hj
  · cases hu
    rfl
  · rw [State.endStep_fault, exec_fault_iff hs hexec] at hu
    rw [exec_of_raises hu] at hexec
    cases hexec
    rfl

/-- Settles O12: `step_fault_iff` with the condition of each kind written out, and O13 for PC and I. -/
theorem faultsAreRaisedExactlyWhenListed : Obligations.FaultsAreRaisedExactlyWhenListed := by
  refine ⟨rfl, rfl, rfl, rfl, rfl, rfl, fun s u hs hstep => ⟨?_, ?_, ?_, ?_, ?_, fun hne => ?_⟩⟩
  · rw [step_fault_iff hs hstep]
    exact ⟨fun h => h.elim And.right fun ⟨_, _, hr⟩ => hr.elim, fun h => .inl ⟨rfl, h⟩⟩
  · rw [step_fault_iff hs hstep]
    constructor
    · rintro (⟨h, _⟩ | ⟨i, hrun, ⟨nnn, rfl⟩, hsp⟩)
      · cases h
      · exact ⟨nnn, hrun, hsp⟩
    · rintro ⟨nnn, hrun, hsp⟩
      exact .inr ⟨_, hrun, ⟨nnn, rfl⟩, hsp⟩
  · rw [step_fault_iff hs hstep]
    constructor
    · rintro (⟨h, _⟩ | ⟨i, hrun, rfl, hsp⟩)
      · cases h
      · exact ⟨hrun, hsp⟩
    · rintro ⟨hrun, hsp⟩
      exact .inr ⟨_, hrun, rfl, hsp⟩
  · rw [step_fault_iff hs hstep]
    constructor
    · rintro (⟨h, _⟩ | ⟨i, hrun, m, hm, hgt⟩)
      · cases h
      · exact ⟨i, m, hrun, hm, hgt⟩
    · rintro ⟨i, m, hrun, hm, hgt⟩
      exact .inr ⟨i, hrun, m, hm, hgt⟩
  · rw [step_fault_iff hs hstep]
    constructor
    · rintro (⟨h, _⟩ | ⟨i, hrun, x, rfl | rfl, hgt⟩)
      · cases h
      · exact ⟨x, .inl hrun, hgt⟩
      · exact ⟨x, .inr hrun, hgt⟩
    · rintro ⟨x, hrun | hrun, hgt⟩
      · exact .inr ⟨_, hrun, x, .inl rfl, hgt⟩
      · exact .inr ⟨_, hrun, x, .inr rfl, hgt⟩
  · obtain ⟨k, hk⟩ := Option.ne_none_iff_exists'.mp hne
    have hu := faultingStepIsDiscarded s u k hs hstep hk
    exact ⟨(congrArg State.pc hu).trans rfl, (congrArg State.i hu).trans rfl⟩

/-! ## The step of an instruction (R89) -/

theorem countDown_eq (b : Byte) : countDown b = BitVec.ofNat 8 (b.toNat - 1) :=
  eq_ofNat_of_toNat_eq (countDown_toNat b)

/-- Settles O7: the step is the end of the step after the execute phase, which keeps the input fields. -/
theorem stepRunsTheDecodedInstruction : Obligations.StepRunsTheDecodedInstruction := by
  intro s t i hs hpc hdecode hexec
  have hstep : step s = .next t.endStep := step_of_runs ⟨hs, hpc, hdecode⟩ hexec
  have hrnd : t.rndIn = s.rndIn := exec_same (p := .rndIn) hexec id nofun nofun
  have hdraws : t.draws = s.draws := exec_same (p := .draws) hexec id nofun nofun
  refine ⟨fun ht => ?_, fun k ht => ?_⟩
  · have hbeep : (t.st == 1) = decide (t.st.toNat = 1) := by
      rw [Bool.eq_iff_iff, beq_iff_eq, decide_eq_true_iff]
      exact BitVec.toNat_inj.symm
    rw [hstep, State.endStep_completed ht, ← hrnd, ← hdraws, ← countDown_eq, ← countDown_eq, ← hbeep]
    rfl
  · rw [hstep, State.endStep_faulted ht, ← hrnd, ← hdraws]
    rfl

/-! ## PC after each instruction (R120) -/

section
variable {s : State} (h : s.pc.toNat ≤ 0xFFE)
include h

theorem pc_add_two_toNat : (s.pc + 2).toNat = s.pc.toNat + 2 := by
  rw [BitVec.toNat_add]
  exact Nat.mod_eq_of_lt (show s.pc.toNat + 2 < 65536 by omega)

theorem skipIf_advance_pc_toNat (c : Bool) : (s.advance.skipIf c).pc.toNat = s.pc.toNat + if c then 4 else 2 := by
  rw [State.skipIf_advance_pc]
  cases c
  · exact pc_add_two_toNat h
  · rw [BitVec.toNat_add]
    exact Nat.mod_eq_of_lt (show s.pc.toNat + 4 < 65536 by omega)

end

/-- A memory instruction that does not fault leaves PC at the next opcode. -/
theorem exec_memory_pc {i : Instr} {s t : State} (hi : (∃ x, i = .ldB x) ∨ (∃ x, i = .storeRegs x) ∨
    (∃ x, i = .loadRegs x) ∨ ∃ x y n, i = .drw x y n) (hok : ∀ k, ¬ raises i s k) (hexec : exec i s = .next t) :
    t.pc = s.pc + 2 := by
  rcases hi with ⟨x, rfl⟩ | ⟨x, rfl⟩ | ⟨x, rfl⟩ | ⟨x, y, n, rfl⟩
  · rw [exec_ldB x (inRange_of_not_raises rfl hok)] at hexec
    cases hexec
    exact congrArg State.pc (State.writeBytes_frame ..)
  · rw [exec_storeRegs (inRange_of_not_raises rfl hok)] at hexec
    cases hexec
    exact congrArg State.pc (State.writeBytes_frame ..)
  · rw [exec_loadRegs (inRange_of_not_raises rfl hok)] at hexec
    cases hexec
    exact congrArg State.pc (State.fillRegs_frame ..)
  · rw [exec_drw x y (inRange_of_not_raises_drw hok)] at hexec
    cases hexec
    exact congrArg State.pc (State.drawSprite_frame ..)

/-- Settles O15: the next state of each control transfer and each skip names its PC; every other instruction leaves the
advance of the fetch. -/
theorem programCounterAfterEachInstruction : Obligations.ProgramCounterAfterEachInstruction := by
  intro s u i hrun hstep hu
  obtain ⟨t, hexec, _, hok, rfl⟩ := completed_of_runs hrun hstep hu
  have hpc : s.pc.toNat ≤ 0xFFE := hrun.2.1
  have hnext : (s.pc + 2).toNat = s.pc.toNat + 2 := pc_add_two_toNat hpc
  rw [State.endStep_pc]
  cases i with
  | jp nnn => cases hexec; exact zextAddr_toNat nnn
  | call nnn =>
    obtain ⟨k, hk⟩ := exists_entry_of_not_raises_call hok
    rw [exec_call nnn hk] at hexec
    cases hexec
    exact zextAddr_toNat nnn
  | jpV0 nnn =>
    cases hexec
    have hnnn := nnn.isLt
    have hv0 := (s.reg 0x0).isLt
    refine (add_zextByte_toNat _ _).trans ?_
    rw [zextAddr_toNat]
    exact Nat.mod_eq_of_lt (show nnn.toNat + (s.reg 0x0).toNat < 65536 by omega)
  | ret =>
    obtain ⟨k, hk⟩ := exists_entry_of_not_raises_ret hok
    rw [exec_ret hk] at hexec
    cases hexec
    exact ⟨k, hk, rfl⟩
  | seByte x nn =>
    cases hexec
    refine (skipIf_advance_pc_toNat hpc _).trans ?_
    simp only [beq_iff_eq]
    rfl
  | sneByte x nn =>
    cases hexec
    refine (skipIf_advance_pc_toNat hpc _).trans ?_
    simp only [bne_iff_ne, ne_eq, ite_not]
    rfl
  | seReg x y n =>
    cases hexec
    refine (skipIf_advance_pc_toNat hpc _).trans ?_
    simp only [beq_iff_eq]
    rfl
  | sneReg x y n =>
    cases hexec
    refine (skipIf_advance_pc_toNat hpc _).trans ?_
    simp only [bne_iff_ne, ne_eq, ite_not]
    rfl
  | skp x =>
    obtain ⟨k, hk⟩ := exists_key_of_not_raises (.inl rfl) hok
    rw [exec_skp hk] at hexec
    cases hexec
    exact ⟨k, hk, skipIf_advance_pc_toNat hpc _⟩
  | sknp x =>
    obtain ⟨k, hk⟩ := exists_key_of_not_raises (.inr rfl) hok
    rw [exec_sknp hk] at hexec
    cases hexec
    refine ⟨k, hk, (skipIf_advance_pc_toNat hpc _).trans ?_⟩
    cases s.key[k] <;> rfl
  | ldVxK x =>
    cases hkey : s.firstKey with
    | some k =>
      rw [exec_ldVxK_of_firstKey_some x hkey] at hexec
      cases hexec
      have hpressed : ∃ j : Fin 16, s.key[j] = true := ⟨k, (State.firstKey_some hkey).1⟩
      rw [if_pos hpressed]
      exact hnext
    | none =>
      rw [exec_ldVxK_of_firstKey_none x hkey] at hexec
      cases hexec
      have hnone : ¬ ∃ j : Fin 16, s.key[j] = true := by
        rintro ⟨j, hj⟩
        rw [State.firstKey_none hkey j] at hj
        cases hj
      rw [if_neg hnone]
      rfl
  | ldB x => rw [exec_memory_pc (.inl ⟨x, rfl⟩) hok hexec]; exact hnext
  | storeRegs x => rw [exec_memory_pc (.inr (.inl ⟨x, rfl⟩)) hok hexec]; exact hnext
  | loadRegs x => rw [exec_memory_pc (.inr (.inr (.inl ⟨x, rfl⟩))) hok hexec]; exact hnext
  | drw x y n => rw [exec_memory_pc (.inr (.inr (.inr ⟨x, y, n, rfl⟩))) hok hexec]; exact hnext
  | _ => cases hexec; exact hnext

/-! ## The timers over many steps (R281, R290) -/

section
variable {s u : State} (hs : s.fault = none) (hstep : step s = .next u) (hu : u.fault = none)
include hs hstep hu

/-- A completed step whose instruction does not write DT counts it once. -/
theorem step_dt_of_not_written (hi : ∀ x, decode s.opcodeAtPc ≠ .ldDtVx x) : u.dt.toNat = s.dt.toNat - 1 := by
  obtain ⟨t, hexec, ht, _, rfl⟩ := completed_of_runs (runs_of_step hs hstep hu) hstep hu
  have hdt : t.dt = s.dt := exec_same (p := .dt) hexec (fun ⟨x, hx⟩ => hi x hx) nofun nofun
  rw [(State.endStep_counts ht).1, hdt]

/-- A completed step whose instruction does not write ST counts it once, and beeps exactly where it was 1. -/
theorem step_st_of_not_written (hi : ∀ x, decode s.opcodeAtPc ≠ .ldStVx x) :
    u.st.toNat = s.st.toNat - 1 ∧ (u.beep = true ↔ s.st.toNat = 1) := by
  obtain ⟨t, hexec, ht, _, rfl⟩ := completed_of_runs (runs_of_step hs hstep hu) hstep hu
  have hst : t.st = s.st := exec_same (p := .st) hexec (fun ⟨x, hx⟩ => hi x hx) nofun nofun
  obtain ⟨_, hcount, hbeep⟩ := State.endStep_counts ht
  rw [hcount, hbeep, hst]
  exact ⟨rfl, BitVec.toNat_inj.symm⟩

end

/-- A step that ends without a fault began without one. -/
theorem fault_eq_none_of_step {s u : State} (hstep : step s = .next u) (hu : u.fault = none) : s.fault = none := by
  cases hs : s.fault with
  | none => rfl
  | some k =>
    rw [step_stuck hs] at hstep
    cases hstep
    exact absurd (hs.symm.trans hu) nofun

/-- A count down in each of `n` steps ends `n` lower, or at 0. -/
theorem iterate_countDown {f : Nat → Nat} {n : Nat} (h : ∀ m < n, f (m + 1) = f m - 1) : ∀ m ≤ n, f m = f 0 - m := by
  intro m hm
  induction m with
  | zero => rfl
  | succ m ih => rw [h m hm, ih (by omega)]; omega

/-- Settles O11: each step counts an unwritten timer once, so after `m` steps it is `m` lower. -/
theorem unwrittenTimersCountTheSteps : Obligations.UnwrittenTimersCountTheSteps := by
  intro run n hrun
  have hs (m) (hm : m < n) : (run m).fault = none := fault_eq_none_of_step (hrun m hm).1 (hrun m hm).2
  refine ⟨fun hdt => ?_, fun hst => ?_⟩
  · exact iterate_countDown (f := fun m => (run m).dt.toNat) (n := n)
      (fun m hm => step_dt_of_not_written (hs m hm) (hrun m hm).1 (hrun m hm).2 (hdt m hm)) n le_rfl
  · have hcount (m) (hm : m < n) := step_st_of_not_written (hs m hm) (hrun m hm).1 (hrun m hm).2 (hst m hm)
    have hvalue := iterate_countDown (f := fun m => (run m).st.toNat) (n := n) fun m hm => (hcount m hm).1
    refine ⟨hvalue n le_rfl, fun m hm => (hcount m hm).2.trans ?_⟩
    have hm' : (run m).st.toNat = (run 0).st.toNat - m := hvalue m (by omega)
    omega

/-! ## DRAW (R33, R194) -/

/-- Settles O42: 00E0 and DXYN end in a write of DRAW, every other instruction has no write of it in its frame, and a
fault leaves it. -/
theorem drawFlagIsSetByExactlyTheDisplayInstructions :
    Obligations.DrawFlagIsSetByExactlyTheDisplayInstructions := by
  intro i s t hs hexec
  refine ⟨fun ht => ?_, fun ht => ?_⟩
  · have hok := not_raises_of_fault_eq_none hs hexec ht
    by_cases hi : i = .cls ∨ ∃ x y n, i = .drw x y n
    · refine iff_of_true ?_ (.inr hi)
      rcases hi with rfl | ⟨x, y, n, rfl⟩
      · cases hexec
        rfl
      · rw [exec_drw x y (inRange_of_not_raises_drw hok)] at hexec
        cases hexec
        rfl
    · have hdraw : t.draw = s.draw := exec_same (p := .draw) hexec hi nofun nofun
      rw [hdraw]
      exact (or_iff_left hi).symm
  · obtain ⟨k, hk⟩ := Option.ne_none_iff_exists'.mp ht
    rw [exec_of_raises ((exec_fault_iff hs hexec).mp hk)] at hexec
    cases hexec
    rfl

end Sys2Proof.Machine
end

section
/-! SUPPORT. The random input (60_exceptions.md, R261): every operation but the read of it commutes with another input. -/

namespace Sys2Proof.Machine

/-- The state with another random input. -/
def State.withInput (s : State) (r : List Byte) (d : Nat) : State := { s with rndIn := r, draws := d }

section
variable (r : List Byte) (d : Nat) (s : State)

theorem withInput_skipIf (c : Bool) : (s.withInput r d).skipIf c = (s.skipIf c).withInput r d := by
  cases c <;> rfl

theorem withInput_takeKey (x : Reg) (k : Option Reg) :
    (s.withInput r d).takeKey x k = (s.takeKey x k).withInput r d := by
  cases k <;> rfl

theorem withInput_writeBytes (a : Nat) (bs : List Byte) :
    (s.withInput r d).writeBytes a bs = (s.writeBytes a bs).withInput r d := by
  induction bs generalizing s a with
  | nil => rfl
  | cons b bs ih => exact ih (s.writeByte a b) (a + 1)

theorem withInput_fillRegs (n : Nat) : (s.withInput r d).fillRegs n = (s.fillRegs n).withInput r d :=
  List.foldl_hom (fun t : State => t.withInput r d) fun _ _ => rfl

theorem withInput_togglePixel (k : Nat) : (s.withInput r d).togglePixel k = (s.togglePixel k).withInput r d := by
  unfold State.togglePixel
  by_cases h : s.pixel k = 0
  · rw [if_neg (not_not_intro h), if_neg (not_not_intro (show (s.withInput r d).pixel k = 0 from h))]
    rfl
  · rw [if_pos h, if_pos (show (s.withInput r d).pixel k ≠ 0 from h)]
    rfl

theorem withInput_drawBit (x y : Reg) (l : Byte × Byte) (i : Nat) (row : Byte) (j : Nat) :
    (s.withInput r d).drawBit x y l i row j = (s.drawBit x y l i row j).withInput r d := by
  unfold State.drawBit
  split
  · exact withInput_togglePixel r d s _
  · rfl

theorem withInput_drawRow (x y : Reg) (l : Byte × Byte) (i : Nat) :
    State.drawRow x y l (s.withInput r d) i = (State.drawRow x y l s i).withInput r d :=
  List.foldl_hom (fun t : State => t.withInput r d) fun t j => withInput_drawBit r d t x y l i _ j

theorem withInput_drawSprite (x y : Reg) (n : Nat) :
    (s.withInput r d).drawSprite x y n = (s.drawSprite x y n).withInput r d := by
  have hrows := List.foldl_hom (l := List.range n) (init := s.setReg .vf 0) (fun t : State => t.withInput r d)
    fun t i => withInput_drawRow r d t x y (s.reg x, s.reg y) i
  exact congrArg (State.setDraw · true) hrows

end

/-- An instruction raises the same faults whatever the random input. -/
theorem raises_withInput {i : Instr} {s : State} {k : Fault} (r : List Byte) (d : Nat) (h : raises i s k) :
    raises i (s.withInput r d) k := by
  cases k <;> exact h

/-- Settles O30: a faulting instruction discards its step whatever the input, and the next state of a completing one is
made of operations that commute with another input. -/
theorem onlyRandomReadsTheRandomInput : Obligations.OnlyRandomReadsTheRandomInput := by
  intro i s t r d hi hexec
  change exec i (s.withInput r d) = .next (t.withInput r d)
  rcases exec_inversion hexec with ⟨k, hk, rfl⟩ | ⟨hok, _⟩
  · exact exec_of_raises (raises_withInput r d hk)
  cases i with
  | rnd x nn => exact absurd rfl (hi x nn)
  | ret =>
    obtain ⟨k, hk⟩ := exists_entry_of_not_raises_ret hok
    rw [exec_ret hk] at hexec
    cases hexec
    exact exec_ret (s := s.withInput r d) hk
  | call nnn =>
    obtain ⟨k, hk⟩ := exists_entry_of_not_raises_call hok
    rw [exec_call nnn hk] at hexec
    cases hexec
    exact exec_call (s := s.withInput r d) nnn hk
  | skp x =>
    obtain ⟨k, hk⟩ := exists_key_of_not_raises (.inl rfl) hok
    rw [exec_skp hk] at hexec
    cases hexec
    exact (exec_skp (s := s.withInput r d) hk).trans (congrArg _ (withInput_skipIf r d s.advance _))
  | sknp x =>
    obtain ⟨k, hk⟩ := exists_key_of_not_raises (.inr rfl) hok
    rw [exec_sknp hk] at hexec
    cases hexec
    exact (exec_sknp (s := s.withInput r d) hk).trans (congrArg _ (withInput_skipIf r d s.advance _))
  | seByte | sneByte | seReg | sneReg =>
    cases hexec
    exact congrArg _ (withInput_skipIf r d s.advance _)
  | ldVxK x =>
    cases hexec
    exact congrArg _ (withInput_takeKey r d s.advance x _)
  | ldB x =>
    have hrange := inRange_of_not_raises rfl hok
    rw [exec_ldB x hrange] at hexec
    cases hexec
    exact (exec_ldB (s := s.withInput r d) x hrange).trans (congrArg _ (withInput_writeBytes r d s.advance _ _))
  | storeRegs x =>
    have hrange := inRange_of_not_raises rfl hok
    rw [exec_storeRegs hrange] at hexec
    cases hexec
    exact (exec_storeRegs (s := s.withInput r d) hrange).trans (congrArg _ (withInput_writeBytes r d s.advance _ _))
  | loadRegs x =>
    have hrange := inRange_of_not_raises rfl hok
    rw [exec_loadRegs hrange] at hexec
    cases hexec
    exact (exec_loadRegs (s := s.withInput r d) hrange).trans (congrArg _ (withInput_fillRegs r d s.advance _))
  | drw x y n =>
    have hrange := inRange_of_not_raises_drw hok
    rw [exec_drw x y hrange] at hexec
    cases hexec
    exact (exec_drw (s := s.withInput r d) x y hrange).trans (congrArg _ (withInput_drawSprite r d s.advance x y _))
  | _ => cases hexec; rfl

end Sys2Proof.Machine
end

section
/-! SUPPORT. The host interface (60_exceptions.md section 3, 70_reset_and_hazards.md): Reset, Load, the display and DRAW,
and a machine that a fault has stopped. -/

namespace Sys2Proof.Machine

/-! ## Load (R282) -/

theorem loadAccepts_iff (c : Config) (buf : List Byte) :
    loadAccepts c buf = true ↔ 0 < buf.length ∧ buf.length ≤ c.loadCap := by
  rw [loadAccepts, Bool.and_eq_true, bne_iff_ne, decide_eq_true_iff, Nat.pos_iff_ne_zero]

theorem State.load_of_accepts {s : State} {buf : List Byte} (h : loadAccepts s.cfg buf = true) :
    s.load buf = (.ok, s.writeBytes 0x200 buf) := if_pos h

theorem State.load_of_refuses {s : State} {buf : List Byte} (h : ¬ loadAccepts s.cfg buf = true) :
    s.load buf = (.emptyOrOversizedProgram, s) := if_neg h

/-- Load changes memory only. -/
theorem State.load_frame (s : State) (buf : List Byte) : (s.load buf).2 = { s with mem := (s.load buf).2.mem } := by
  by_cases h : loadAccepts s.cfg buf = true
  · rw [State.load_of_accepts h]
    exact State.writeBytes_frame s 0x200 buf
  · rw [State.load_of_refuses h]

/-- Byte `k` of a block write is at `a + k`. -/
theorem readByte_writeBytes_add (s : State) (a : Nat) (bs : List Byte) (k : Fin bs.length) :
    (s.writeBytes a bs).readByte (a + k.val) = bs[k] := by
  have hk := k.isLt
  rw [State.readByte_writeBytes, dif_pos ⟨by omega, by omega⟩]
  simp only [Nat.add_sub_cancel_left]
  rfl

theorem State.load_readByte {s : State} {buf : List Byte} (h : loadAccepts s.cfg buf = true) (k : Fin buf.length) :
    (s.load buf).2.readByte (0x200 + k.val) = buf[k] := by
  rw [State.load_of_accepts h]
  exact readByte_writeBytes_add s 0x200 buf k

/-- Settles O53: a refused Load answers its state, an accepted one a block write at 0x200. -/
theorem loadCopiesAllOrNothing : Obligations.LoadCopiesAllOrNothing := by
  refine ⟨rfl, fun c => ?_, fun s buf => ⟨fun hbad => ?_, fun hpos hcap => ?_⟩⟩
  · rw [Config.wf, Bool.and_eq_true, decide_eq_true_iff, decide_eq_true_iff]
  · refine State.load_of_refuses fun h => ?_
    rw [loadAccepts_iff] at h
    omega
  · have h : loadAccepts s.cfg buf = true := (loadAccepts_iff s.cfg buf).mpr ⟨hpos, hcap⟩
    exact ⟨_, State.load_of_accepts h, readByte_writeBytes_add s 0x200 buf, onlyChanges_writeBytes s 0x200 buf⟩

/-! ## Reset (R48, R280) -/

theorem hasResetValues_resetWith (c : Config) : HasResetValues c (State.resetWith c) where
  font a := dif_pos a.isLt
  zeroMemory a ha := dif_neg (by omega)
  v k := by simp [State.reg, State.resetWith]
  i := rfl
  pc := rfl
  sp := rfl
  stack k := by simp [State.resetWith]
  dt := rfl
  st := rfl
  key k := by simp [State.resetWith]
  disp _ := rfl
  draw := rfl
  fault := rfl

/-- The host's Reset gives the same values: the inputs it keeps are no piece of the block (R47). -/
theorem hasResetValues_hostReset (s : State) : HasResetValues s.cfg s.hostReset :=
  have h := hasResetValues_resetWith s.cfg
  { font := h.font, zeroMemory := h.zeroMemory, v := h.v, i := rfl, pc := rfl, sp := rfl, stack := h.stack, dt := rfl,
    st := rfl, key := h.key, disp := h.disp, draw := rfl, fault := rfl }

/-- Settles O52: both resets have the reset values of their parameters. -/
theorem resetGivesEveryPieceItsValue : Obligations.ResetGivesEveryPieceItsValue :=
  ⟨fun s => ⟨_, rfl, hasResetValues_hostReset s⟩, hasResetValues_resetWith, hasResetValues_resetWith _, rfl⟩

/-! ## A stopped machine (R253) -/

/-- A host Step of a machine that a fault has stopped takes its input and does not beep. -/
theorem hostOp_step_of_fault {s : State} {k : Fault} (hs : s.fault = some k) (rnd : Byte) :
    hostOp (.step rnd) s = .next (.stepped false, ({ s with rndIn := rnd :: s.rndIn } : State).stuckStep) := by
  have hstep : s.stepWith rnd = .next ({ s with rndIn := rnd :: s.rndIn } : State).stuckStep :=
    step_stuck (s := { s with rndIn := rnd :: s.rndIn }) hs
  rw [hostOp, hstep]
  rfl

/-- Settles O14: a stuck step writes BEEP and the input fields only, and of the host operations only Reset writes FAULT. -/
theorem faultedMachineIsStuckUntilReset : Obligations.FaultedMachineIsStuckUntilReset := by
  intro s k hs
  refine ⟨⟨_, step_stuck hs, rfl⟩, fun o r t h => ?_, fun buf hne hcap j => ?_⟩
  · cases o with
    | reset => cases h; exact ⟨fun _ => rfl, fun hne => absurd rfl hne, nofun⟩
    | step rnd =>
      rw [hostOp_step_of_fault hs] at h
      cases h
      exact ⟨nofun, fun _ => hs, fun _ _ => rfl⟩
    | load buf =>
      cases h
      exact ⟨nofun, fun _ => (congrArg State.fault (State.load_frame s buf)).trans hs, nofun⟩
    | writeKeys | readDisplay | readDrawFlag | clearDrawFlag | readFault =>
      cases h
      exact ⟨nofun, fun _ => hs, nofun⟩
  · exact State.load_readByte ((loadAccepts_iff s.cfg buf).mpr ⟨List.length_pos_iff.mpr hne, hcap⟩) j

/-! ## The display and DRAW (R262, R263) -/

/-- Only a Step sets DRAW: of the other host operations Reset and ClearDrawFlag clear it and the rest leave it. -/
theorem draw_of_hostOp {o : HostOp} {s t : State} {r : HostReply} (h : hostOp o s = .next (r, t))
    (hstep : ∀ rnd, o ≠ .step rnd) (ht : t.draw = true) : s.draw = true := by
  cases o with
  | step rnd => exact absurd rfl (hstep rnd)
  | reset => cases h; cases ht
  | clearDrawFlag => cases h; cases ht
  | load buf =>
    cases h
    exact (congrArg State.draw (State.load_frame s buf)).symm.trans ht
  | writeKeys | readDisplay | readDrawFlag | readFault => cases h; exact ht

/-- Settles O54: ReadDisplay lists the 2048 pixels in order, and `draw_of_hostOp` says who sets DRAW. -/
theorem hostReadsTheDisplayAndTheDrawFlag : Obligations.HostReadsTheDisplayAndTheDrawFlag := by
  intro s
  refine ⟨⟨?_, fun x y hx hy => ?_, fun hinv b hb => ?_, rfl⟩,
    ⟨rfl, _, rfl, rfl, onlyChanges_setDraw s false⟩, fun o r t h hstep ht => draw_of_hostOp h hstep ht⟩
  · simp [State.readDisplay]
  · have hk : y * 64 + x < 2048 := by omega
    simp [State.readDisplay, hk]
  · obtain ⟨k, _, rfl⟩ := List.mem_map.mp hb
    exact hinv.monochrome k

end Sys2Proof.Machine
end

section
/-! SUPPORT. The invariant (10_state.md, 43_display.md): it holds after Reset, and every Step and every host operation
keeps it. -/

namespace Sys2Proof.Machine

/-- The invariant looks at the parameters, memory, the display, PC and the stack only. -/
theorem State.Inv.congr {s t : State} (h : s.Inv) (hcfg : t.cfg = s.cfg) (hmem : t.mem = s.mem)
    (hdisp : t.disp = s.disp) (hpc : t.pc = s.pc) (hstack : t.stack = s.stack) : t.Inv where
  cfgWf := by rw [hcfg]; exact h.cfgWf
  memWf := by rw [hcfg, hmem]; exact h.memWf
  dispWf := by rw [hdisp]; exact h.dispWf
  monochrome k := by rw [State.pixel_congr hdisp]; exact h.monochrome k
  pcBound := by rw [hpc]; exact h.pcBound
  stackBound k := by rw [hstack]; exact h.stackBound k

/-! ## Memory and display through an execute phase -/

/-- What an execute phase keeps of memory and display: their canonical form, and each pixel up to a toggle or a clear. -/
structure KeepsStorage (s t : State) : Prop where
  memWf : Memory.wf s.cfg.font s.mem = true → Memory.wf t.cfg.font t.mem = true
  dispWf : Display.wf s.disp = true → Display.wf t.disp = true
  pixels : ∀ k, t.pixel k = s.pixel k ∨ t.pixel k = s.pixel k ^^^ 0xFF ∨ t.pixel k = 0x00

theorem KeepsStorage.of_same {s t : State} (hmem : t.mem = s.mem) (hcfg : t.cfg = s.cfg) (hdisp : t.disp = s.disp) :
    KeepsStorage s t where
  memWf h := by rw [hcfg, hmem]; exact h
  dispWf h := by rw [hdisp]; exact h
  pixels k := .inl (State.pixel_congr hdisp k)

/-- A skip keeps memory and display. -/
theorem KeepsStorage.skip (s : State) (c : Bool) : KeepsStorage s (s.advance.skipIf c) := by
  rw [State.skipIf_eq]
  exact .of_same rfl rfl rfl

/-- A block write inside memory keeps its canonical form, and the display. -/
theorem KeepsStorage.writeBytes {s : State} {a : Nat} {bs : List Byte} (h : a + bs.length ≤ 4096) :
    KeepsStorage s (s.advance.writeBytes a bs) where
  memWf hs := State.writeBytes_memWf (s := s.advance) h hs
  dispWf hs := by rw [State.writeBytes_frame]; exact hs
  pixels k := .inl (by rw [State.writeBytes_frame]; rfl)

theorem KeepsStorage.drawSprite (s : State) (x y : Reg) (n : Nat) : KeepsStorage s (s.advance.drawSprite x y n) where
  memWf hs := by rw [State.drawSprite_frame]; exact hs
  dispWf hs := State.drawSprite_wf (s := s.advance) x y n hs
  pixels k := (State.drawSprite_pixel s.advance x y n k).imp_right .inl

theorem exec_keepsStorage {i : Instr} {s t : State} (hok : ∀ k, ¬ raises i s k) (h : exec i s = .next t) :
    KeepsStorage s t := by
  cases i with
  | cls => cases h; exact ⟨id, fun _ => rfl, fun _ => .inr (.inr rfl)⟩
  | ret =>
    obtain ⟨k, hk⟩ := exists_entry_of_not_raises_ret hok
    rw [exec_ret hk] at h
    cases h
    exact .of_same rfl rfl rfl
  | call nnn =>
    obtain ⟨k, hk⟩ := exists_entry_of_not_raises_call hok
    rw [exec_call nnn hk] at h
    cases h
    exact .of_same rfl rfl rfl
  | seByte | sneByte | seReg | sneReg => cases h; exact .skip s _
  | skp x =>
    obtain ⟨k, hk⟩ := exists_key_of_not_raises (.inl rfl) hok
    rw [exec_skp hk] at h
    cases h
    exact .skip s _
  | sknp x =>
    obtain ⟨k, hk⟩ := exists_key_of_not_raises (.inr rfl) hok
    rw [exec_sknp hk] at h
    cases h
    exact .skip s _
  | ldVxK x =>
    cases h
    cases s.advance.firstKey <;> exact .of_same rfl rfl rfl
  | ldB x =>
    have hrange := inRange_of_not_raises rfl hok
    rw [exec_ldB x hrange] at h
    cases h
    exact .writeBytes (by rw [bcdDigits_length]; omega)
  | storeRegs x =>
    have hrange := inRange_of_not_raises rfl hok
    rw [exec_storeRegs hrange] at h
    cases h
    exact .writeBytes (by rw [State.regsThrough_length]; omega)
  | loadRegs x =>
    rw [exec_loadRegs (inRange_of_not_raises rfl hok)] at h
    cases h
    rw [State.fillRegs_frame]
    exact .of_same rfl rfl rfl
  | drw x y n =>
    rw [exec_drw x y (inRange_of_not_raises_drw hok)] at h
    cases h
    exact .drawSprite s x y _
  | _ => cases h; exact .of_same rfl rfl rfl

/-! ## PC and the stack through a step (R26, R111, R114) -/

/-- A stack entry stays, or is the address after the call that pushed it. -/
theorem exec_stack {i : Instr} {s t : State} (hok : ∀ k, ¬ raises i s k) (h : exec i s = .next t) (k : Fin 16) :
    t.stack[k] = s.stack[k] ∨ t.stack[k] = s.pc + 2 := by
  by_cases hk : writes i s (.stack k)
  · obtain ⟨hsp, nnn, rfl⟩ := hk
    rw [exec_call nnn hsp.symm] at h
    cases h
    exact .inr ((State.pushed_stack s k k (zextAddr nnn)).trans (if_pos rfl))
  · exact .inl (exec_frame hok h _ hk)

/-- Where a completed step leaves PC, by the table of R120: the largest is a jump through V0. -/
theorem pc_le_of_step {s u : State} {i : Instr} (hinv : s.Inv) (hrun : s.runs i) (hstep : step s = .next u)
    (hu : u.fault = none) : u.pc.toNat ≤ 0x10FE := by
  have hpc : s.pc.toNat ≤ 0xFFE := hrun.2.1
  have h := programCounterAfterEachInstruction s u i hrun hstep hu
  cases i with
  | jp nnn | call nnn =>
    have hnnn := nnn.isLt
    exact Eq.trans_le h (by omega)
  | jpV0 nnn =>
    have hnnn := nnn.isLt
    have hv0 := (s.reg 0x0).isLt
    exact Eq.trans_le h (by omega)
  | ret =>
    obtain ⟨k, _, hk⟩ := h
    have hentry := hinv.stackBound k
    rw [hk]
    omega
  | seByte | sneByte | seReg | sneReg | ldVxK => exact Eq.trans_le h (by split <;> omega)
  | skp x | sknp x =>
    obtain ⟨k, _, hk⟩ := h
    exact hk.trans_le (by split <;> omega)
  | _ => exact Eq.trans_le h (by omega)

/-! ## The invariant through a step -/

/-- A pixel that is 0x00 or 0xFF is so after a toggle and after a clear (R193). -/
theorem monochrome_of_keepsStorage {s t : State} (h : KeepsStorage s t) (hs : ∀ k, s.pixel k = 0x00 ∨ s.pixel k = 0xFF)
    (k : Nat) : t.pixel k = 0x00 ∨ t.pixel k = 0xFF := by
  rcases h.pixels k with hk | hk | hk
  · rw [hk]; exact hs k
  · rw [hk]
    rcases hs k with h0 | h0
    · exact .inr (by rw [h0]; rfl)
    · exact .inl (by rw [h0]; rfl)
  · exact .inl hk

/-- The end of a step writes the timers, BEEP and the input fields only. -/
theorem State.Inv.endStep {t : State} (h : t.Inv) : t.endStep.Inv := by
  cases hf : t.fault with
  | none => rw [State.endStep_completed hf]; exact h.congr rfl rfl rfl rfl rfl
  | some k => rw [State.endStep_faulted hf]; exact h.congr rfl rfl rfl rfl rfl

/-- Every Step keeps the invariant: a step that does not complete changes none of its pieces, and a completed one keeps
each as its own lemma says. -/
theorem State.Inv.step {s u : State} (hinv : s.Inv) (hstep : step s = .next u) : u.Inv := by
  rcases step_cases hstep with ⟨k, _, rfl⟩ | ⟨_, _, rfl⟩ | ⟨hs, hpc, t, hexec, rfl⟩
  · exact hinv.congr rfl rfl rfl rfl rfl
  · exact hinv.congr rfl rfl rfl rfl rfl
  · refine State.Inv.endStep ?_
    rcases exec_inversion hexec with ⟨k, _, rfl⟩ | ⟨hok, hframe⟩
    · exact hinv.congr rfl rfl rfl rfl rfl
    · have hkeeps : KeepsStorage s t := exec_keepsStorage hok hexec
      have hcfg : t.cfg = s.cfg := hframe .cfg id
      have hfault : t.endStep.fault = none := (State.endStep_fault t).trans ((hframe .fault id).trans hs)
      have hpcNext : t.endStep.pc.toNat ≤ 0x10FE := pc_le_of_step hinv ⟨hs, hpc, rfl⟩ hstep hfault
      have hreturn : (s.pc + 2).toNat ≤ 0x1000 := by rw [pc_add_two_toNat hpc]; omega
      exact {
        cfgWf := by rw [hcfg]; exact hinv.cfgWf
        memWf := hkeeps.memWf hinv.memWf
        dispWf := hkeeps.dispWf hinv.dispWf
        monochrome := monochrome_of_keepsStorage hkeeps hinv.monochrome
        pcBound := by rwa [State.endStep_pc] at hpcNext
        stackBound := fun k => by
          rcases exec_stack hok hexec k with hk | hk
          · rw [hk]; exact hinv.stackBound k
          · rw [hk]; exact hreturn }

/-! ## The invariant through the host interface -/

theorem State.Inv.resetWith {c : Config} (hc : c.wf = true) : (State.resetWith c).Inv where
  cfgWf := hc
  memWf := rfl
  dispWf := rfl
  monochrome _ := .inl rfl
  pcBound := show (0x0200 : Word).toNat ≤ 0x10FE by decide
  stackBound k := by simp [State.resetWith]

/-- A buffer Load accepts ends inside memory, since LOAD_CAP is at most 3584 (R8, R282). -/
theorem State.Inv.load {s : State} (hinv : s.Inv) (buf : List Byte) : (s.load buf).2.Inv := by
  by_cases h : loadAccepts s.cfg buf = true
  · obtain ⟨_, hcap⟩ := (loadAccepts_iff s.cfg buf).mp h
    have hwf := hinv.cfgWf
    rw [Config.wf, Bool.and_eq_true, decide_eq_true_iff, decide_eq_true_iff] at hwf
    have hmem := State.writeBytes_memWf (s := s) (a := 0x200) (bs := buf) (by omega) hinv.memWf
    rw [State.load_of_accepts h]
    rw [State.writeBytes_frame] at hmem ⊢
    exact { hinv with memWf := hmem }
  · rw [State.load_of_refuses h]
    exact hinv

/-- Every host operation keeps the invariant. -/
theorem State.Inv.hostOp {o : HostOp} {s t : State} {r : HostReply} (hinv : s.Inv) (h : hostOp o s = .next (r, t)) :
    t.Inv := by
  cases o with
  | reset =>
    cases h
    exact (State.Inv.resetWith hinv.cfgWf).congr rfl rfl rfl rfl rfl
  | load buf =>
    cases h
    exact hinv.load buf
  | step rnd =>
    have hinput : State.Inv { s with rndIn := rnd :: s.rndIn } := hinv.congr rfl rfl rfl rfl rfl
    exact hinput.step (stepWith_of_hostOp_step h)
  | writeKeys | clearDrawFlag =>
    cases h
    exact hinv.congr rfl rfl rfl rfl rfl
  | readDisplay | readDrawFlag | readFault =>
    cases h
    exact hinv

/-- A run keeps the invariant, operation by operation. -/
theorem State.Inv.hostRun {ops : List HostOp} {s t : State} {replies : List HostReply} (hinv : s.Inv)
    (h : hostRun ops s = .next (replies, t)) : t.Inv := by
  induction ops generalizing s replies with
  | nil => cases h; exact hinv
  | cons o os ih =>
    rw [Machine.hostRun] at h
    split at h
    case h_3 r u ho =>
      split at h
      case h_1 rs w hos =>
        cases h
        exact ih (hinv.hostOp ho) hos
      all_goals cases h
    all_goals cases h

/-! ## The statements -/

/-- Settles O49: the reset states of well-formed parameters, the default ones among them. -/
theorem resetMeetsTheInvariant : Obligations.ResetMeetsTheInvariant :=
  ⟨State.Inv.resetWith (by decide), fun _ hc => State.Inv.resetWith hc⟩

/-- Settles O50, by the three things a step can do. -/
theorem everyStepKeepsTheInvariant : Obligations.EveryStepKeepsTheInvariant :=
  fun _ _ hinv hstep => hinv.step hstep

/-- Settles O56, operation by operation. -/
theorem everyHostOperationKeepsTheInvariant : Obligations.EveryHostOperationKeepsTheInvariant :=
  fun _ _ _ _ hinv h => hinv.hostOp h

/-- Settles O51, by induction over the run. -/
theorem everyReachableStateMeetsTheInvariant : Obligations.EveryReachableStateMeetsTheInvariant := by
  rintro s ⟨c, ops, replies, hc, hrun⟩
  exact (State.Inv.resetWith hc).hostRun hrun

end Sys2Proof.Machine
end

section
/-! SUPPORT. The memory transfers (42_index_memory.md section 2, 20_memory.md): what FX33, FX55 and FX65 leave in range,
and the range check of every memory instruction. -/

namespace Sys2Proof.Machine

/-! ## The bytes written and read -/

/-- The digits of a byte as numbers (R173). -/
theorem bcdDigits_toNat (b : Byte) : (bcdDigits b).map BitVec.toNat = [b.toNat / 100, b.toNat / 10 % 10, b.toNat % 10] := by
  have hb := b.isLt
  simp only [bcdDigits, List.map_cons, List.map_nil, BitVec.toNat_ofNat]
  congr 1
  · omega
  · congr 1
    · omega
    · congr 1
      omega

/-- The register written at offset `k` (R174). -/
theorem regsThrough_getElem (s : State) (x k : Reg) (h : k.val < (s.regsThrough x).length) :
    (s.regsThrough x)[k.val] = s.reg k := by
  simp only [State.regsThrough, List.getElem_take, Vector.getElem_toList]
  rfl

section
variable {s : State} {x : Reg}

/-- After FX55 the byte at I + k is V[k] (R174). -/
theorem readByte_storeRegs {k : Reg} (hk : k ≤ x) :
    (s.advance.writeBytes s.i.toNat (s.regsThrough x)).readByte (s.i.toNat + k.val) = s.reg k := by
  have hlt : k.val < (s.regsThrough x).length := by
    rw [State.regsThrough_length]
    exact Nat.lt_succ_of_le hk
  exact (readByte_writeBytes_add s.advance s.i.toNat (s.regsThrough x) ⟨k.val, hlt⟩).trans
    (regsThrough_getElem s x k hlt)

/-- After FX65 V[k] is the byte at I + k (R175). -/
theorem reg_loadRegs {k : Reg} (hk : k ≤ x) :
    (s.advance.fillRegs (x.val + 1)).reg k = s.readByte (s.i.toNat + k.val) := by
  rw [State.reg_fillRegs _ _ x.isLt, if_pos (Nat.lt_succ_of_le hk)]
  rfl

end

/-! ## The statements on single instructions -/

/-- Settles O32: in range the next state is a block write of the three digits. -/
theorem decimalDigitsAreStored : Obligations.DecimalDigitsAreStored := by
  intro x s
  refine ⟨decode_wordXK_familyF x (by decide), fun h => exec_of_raises (k := .memoryOutOfRange) ⟨2, rfl, h⟩, fun h => ?_⟩
  have hbyte (k : Fin 3) : (s.advance.writeBytes s.i.toNat (bcdDigits (s.reg x))).readByte (s.i.toNat + k.val) =
      (bcdDigits (s.reg x))[k] := readByte_writeBytes_add s.advance s.i.toNat (bcdDigits (s.reg x)) k
  have hdigit (k : Fin 3) : ((bcdDigits (s.reg x))[k]).toNat = ((bcdDigits (s.reg x)).map BitVec.toNat)[k] := by
    simp
  simp only [bcdDigits_toNat] at hdigit
  refine ⟨_, exec_ldB x h, ?_, ?_, ?_, congrArg State.pc (State.writeBytes_frame ..), ?_⟩
  · exact (congrArg BitVec.toNat (hbyte 0)).trans (hdigit 0)
  · exact (congrArg BitVec.toNat (hbyte 1)).trans (hdigit 1)
  · refine ((congrArg BitVec.toNat (hbyte 2)).trans (hdigit 2)).trans ?_
    exact (Nat.mod_mod_of_dvd _ (by decide)).symm
  · refine (onlyChanges_after_advance (onlyChanges_writeBytes _ _ _)).mono fun p hp => hp.imp_right ?_
    rintro ⟨k, hk, rfl⟩
    exact ⟨k, Nat.le_of_lt_succ hk, rfl⟩

/-- Settles O33: in range the next state is a block write of V0 to V[X]. -/
theorem registersAreStoredThroughX : Obligations.RegistersAreStoredThroughX := by
  intro x s
  refine ⟨decode_wordXK_familyF x (by decide), fun h => exec_of_raises (k := .memoryOutOfRange) ⟨x.val, rfl, h⟩,
    fun h => ⟨_, exec_storeRegs h, fun k hk => readByte_storeRegs hk, congrArg State.pc (State.writeBytes_frame ..), ?_⟩⟩
  refine (onlyChanges_after_advance (onlyChanges_writeBytes _ _ _)).mono fun p hp => hp.imp_right ?_
  rintro ⟨k, hk, rfl⟩
  rw [State.regsThrough_length] at hk
  exact ⟨k, Nat.le_of_lt_succ hk, rfl⟩

/-- Settles O34: in range the next state has V0 to V[X] filled from memory. -/
theorem registersAreLoadedThroughX : Obligations.RegistersAreLoadedThroughX := by
  intro x s
  refine ⟨decode_wordXK_familyF x (by decide), fun h => exec_of_raises (k := .memoryOutOfRange) ⟨x.val, rfl, h⟩,
    fun h => ⟨_, exec_loadRegs h, fun k hk => reg_loadRegs hk, congrArg State.pc (State.fillRegs_frame ..), ?_⟩⟩
  refine (onlyChanges_after_advance (onlyChanges_fillRegs _ x.isLt)).mono fun p hp => hp.imp_right ?_
  rintro ⟨k, hk, rfl⟩
  exact ⟨k, Fin.le_def.mpr (Nat.le_of_lt_succ hk), rfl⟩

/-! ## Stores and later reads -/

/-- Settles O35: FX65 reads at I + k what FX55 has written there. -/
theorem storeThenLoadRestoresTheRegisters : Obligations.StoreThenLoadRestoresTheRegisters := by
  intro x s t u hrange hstore hi hmem
  rw [exec_storeRegs hrange] at hstore
  cases hstore
  refine ⟨_, exec_loadRegs (by rwa [hi]), fun k hk => ?_⟩
  rw [reg_loadRegs hk, hi, hmem, readByte_storeRegs hk]

/-- Settles O36: the fetch reads the two bytes FX55 has written, the lower one high. -/
theorem storedBytesAreFetchedAsAnOpcode : Obligations.StoredBytesAreFetchedAsAnOpcode := by
  intro x j k s t u hrange hjk hk hstore hmem hpc
  rw [exec_storeRegs hrange] at hstore
  cases hstore
  have hkx : k.val ≤ x.val := hk
  have hj : j ≤ x := Fin.le_def.mpr (by omega)
  have hnext : u.pc.toNat + 1 = s.i.toNat + k.val := by omega
  rw [State.fetch_eq (by omega), State.opcodeAtPc, hnext, hpc, hmem, hmem, readByte_storeRegs hj, readByte_storeRegs hk]

/-! ## The range check (R64) -/

/-- The instructions with an offset are the four memory instructions. -/
theorem memory_of_maxOffset {i : Instr} {m : Nat} (hm : maxOffset i = some m) : (∃ x, i = .ldB x) ∨
    (∃ x, i = .storeRegs x) ∨ (∃ x, i = .loadRegs x) ∨ ∃ x y n, i = .drw x y n := by
  cases i with
  | ldB x => exact .inl ⟨x, rfl⟩
  | storeRegs x => exact .inr (.inl ⟨x, rfl⟩)
  | loadRegs x => exact .inr (.inr (.inl ⟨x, rfl⟩))
  | drw x y n => exact .inr (.inr (.inr ⟨x, y, n, rfl⟩))
  | _ => cases hm

/-- A memory instruction in its range completes: it has no other fault. -/
theorem exec_memory_inRange {i : Instr} {s : State} (hi : (∃ x, i = .ldB x) ∨ (∃ x, i = .storeRegs x) ∨
    (∃ x, i = .loadRegs x) ∨ ∃ x y n, i = .drw x y n) (hrange : ∀ m, maxOffset i = some m → s.i.toNat + m ≤ 0xFFF) :
    ∃ t, exec i s = .next t ∧ t.fault = s.fault ∧ t.pc = s.pc + 2 := by
  have hok : ∀ k, ¬ raises i s k := by
    intro k hk
    cases k with
    | fetchOutOfRange => exact hk
    | stackOverflow => obtain ⟨⟨nnn, rfl⟩, _⟩ := hk; simp at hi
    | stackUnderflow => obtain ⟨rfl, _⟩ := hk; simp at hi
    | memoryOutOfRange =>
      obtain ⟨m, hm, hgt⟩ := hk
      have hle := hrange m hm
      omega
    | keyIndexOutOfRange => obtain ⟨x, rfl | rfl, _⟩ := hk <;> simp at hi
  obtain ⟨t, hexec⟩ := exec_total i s
  exact ⟨t, hexec, exec_frame hok hexec .fault id, exec_memory_pc hi hok hexec⟩

/-- Settles O37: above 0xFFF the instruction raises its fault, and in range it has none. -/
theorem memoryInstructionsCheckTheirHighestAddress : Obligations.MemoryInstructionsCheckTheirHighestAddress := by
  intro i s
  refine ⟨fun k hk hgt => exec_of_raises (k := .memoryOutOfRange) ⟨k, hk, hgt⟩, fun k hk hle => ?_, ?_⟩
  · refine exec_memory_inRange (memory_of_maxOffset hk) fun m hm => ?_
    rw [hk] at hm
    cases hm
    exact hle
  · rintro x y rfl
    exact exec_memory_inRange (.inr (.inr (.inr ⟨x, y, 0, rfl⟩))) fun m hm => by cases hm

end Sys2Proof.Machine
end

section
/-! SUPPORT. DXYN (43_display.md): the two nested loops as one walk over the bits of the sprite, what holds after each
bit of it, and the drawing for coordinates that are latched, live, or no VF. -/

namespace Sys2Proof.Machine

/-! ## One walk over the bits: bit `b` is bit b mod 8 of row b / 8 -/

/-- The visit of bit `b` of a sprite, its row read at the visit. -/
def State.visit (x y : Reg) (l : Byte × Byte) (s : State) (b : Nat) : State :=
  s.drawBit x y l (b / 8) (s.readByte (s.effAddr (b / 8))) (b % 8)

/-- Drawing changes neither memory nor I, so the rows of the sprite read as before. -/
theorem DrawChange.row {s t : State} (h : DrawChange s t) (i : Nat) :
    t.readByte (t.effAddr i) = s.readByte (s.effAddr i) := by
  rw [h.eq]
  rfl

section
variable (x y : Reg) (l : Byte × Byte) (s : State)

/-- The first `k` bits of row `i`, whose row byte is read once, as visits. -/
theorem drawBits_eq_visits (i : Nat) {k : Nat} (hk : k ≤ 8) :
    (List.range k).foldl (State.drawBit x y l i (s.readByte (s.effAddr i))) s =
      (List.range k).foldl (fun t j => t.visit x y l (8 * i + j)) s := by
  induction k with
  | zero => rfl
  | succ k ih =>
    have hdiv : (8 * i + k) / 8 = i := by omega
    have hmod : (8 * i + k) % 8 = k := by omega
    have hchange := foldl_drawChange (State.drawBit x y l i (s.readByte (s.effAddr i)))
      (fun t j => t.drawBit_change x y l i _ j) (List.range k) s
    simp only [List.range_succ, List.foldl_append, List.foldl_cons, List.foldl_nil]
    rw [← ih (by omega), State.visit, hdiv, hmod, hchange.row]

theorem drawRow_eq_visits (i : Nat) :
    State.drawRow x y l s i = (List.range 8).foldl (fun t j => t.visit x y l (8 * i + j)) s :=
  drawBits_eq_visits x y l s i le_rfl

theorem drawRows_eq_visits (n : Nat) :
    (List.range n).foldl (State.drawRow x y l) s = (List.range (8 * n)).foldl (State.visit x y l) s := by
  induction n with
  | zero => rfl
  | succ n ih =>
    rw [List.range_succ, List.foldl_append, ih, Nat.mul_succ, List.range_add, List.foldl_append, List.foldl_map]
    exact drawRow_eq_visits x y l _ n

end

/-- A bit of the sprite by row and column, or by its place in the walk. -/
theorem exists_bit_iff {P : Nat → Nat → Prop} {n : Nat} :
    (∃ i < n, ∃ j < 8, P i j) ↔ ∃ b < 8 * n, P (b / 8) (b % 8) := by
  constructor
  · rintro ⟨i, hi, j, hj, h⟩
    have hdiv : (8 * i + j) / 8 = i := by omega
    have hmod : (8 * i + j) % 8 = j := by omega
    exact ⟨8 * i + j, by omega, by rwa [hdiv, hmod]⟩
  · rintro ⟨b, hb, h⟩
    exact ⟨b / 8, by omega, b % 8, by omega, h⟩

/-! ## Toggling one pixel (R191) -/

theorem State.pixel_togglePixel (s : State) (k k' : Nat) :
    (s.togglePixel k).pixel k' = if k' = k then s.pixel k ^^^ 0xFF else s.pixel k' := by
  unfold State.togglePixel
  rw [State.pixel_setPixel]
  split
  · rfl
  · split <;> rfl

theorem State.vf_togglePixel (s : State) (k : Nat) :
    (s.togglePixel k).reg .vf = if s.pixel k ≠ 0x00 then 1 else s.reg .vf := by
  unfold State.togglePixel
  rw [State.reg_congr (State.setPixel_v ..)]
  split
  · exact State.reg_setReg_same ..
  · rfl

/-! ## The state in the middle of a drawing -/

/-- The state after the visits of the bits below `m`, begun from `s` with VF = 0, where bit (i, j) addresses pixel
`idx i j`: the addressed pixels are toggled, no other is, and VF tells whether one of them was set. -/
structure Drawn (s : State) (idx : Nat → Nat → Nat) (m : Nat) (t : State) : Prop where
  change : DrawChange s t
  toggled : ∀ b < m, s.spriteBit (b / 8) (b % 8) = true →
    t.pixel (idx (b / 8) (b % 8)) = s.pixel (idx (b / 8) (b % 8)) ^^^ 0xFF
  kept : ∀ k, (∀ b < m, s.spriteBit (b / 8) (b % 8) = true → idx (b / 8) (b % 8) ≠ k) → t.pixel k = s.pixel k
  struck : t.reg .vf = 1 ↔
    ∃ b < m, s.spriteBit (b / 8) (b % 8) = true ∧ s.pixel (idx (b / 8) (b % 8)) ≠ 0x00

section
variable {s t : State} {idx : Nat → Nat → Nat} {m : Nat}

theorem Drawn.init (hvf : s.reg .vf = 0) : Drawn s idx 0 s where
  change := .refl s
  toggled b hb := absurd hb (Nat.not_lt_zero b)
  kept _ _ := rfl
  struck := by
    refine iff_of_false (by rw [hvf]; decide) ?_
    rintro ⟨b, hb, _⟩
    omega

/-- A bit that is clear is passed over. -/
theorem Drawn.skip (h : Drawn s idx m t) (hbit : ¬ s.spriteBit (m / 8) (m % 8) = true) : Drawn s idx (m + 1) t where
  change := h.change
  toggled b hb hset := by
    rcases Nat.lt_succ_iff_lt_or_eq.mp hb with hlt | rfl
    · exact h.toggled b hlt hset
    · exact absurd hset hbit
  kept k hk := h.kept k fun b hb => hk b (by omega)
  struck := by
    rw [h.struck]
    constructor
    · rintro ⟨b, hb, hset, hpix⟩
      exact ⟨b, by omega, hset, hpix⟩
    · rintro ⟨b, hb, hset, hpix⟩
      rcases Nat.lt_succ_iff_lt_or_eq.mp hb with hlt | rfl
      · exact ⟨b, hlt, hset, hpix⟩
      · exact absurd hset hbit

/-- A bit that is set toggles its pixel, which no earlier bit has addressed. -/
theorem Drawn.toggle (h : Drawn s idx m t) (hbit : s.spriteBit (m / 8) (m % 8) = true)
    (hlt : idx (m / 8) (m % 8) < 2048) (hfresh : ∀ b < m, idx (b / 8) (b % 8) ≠ idx (m / 8) (m % 8)) :
    Drawn s idx (m + 1) (t.togglePixel (idx (m / 8) (m % 8))) := by
  have hpixel : t.pixel (idx (m / 8) (m % 8)) = s.pixel (idx (m / 8) (m % 8)) :=
    h.kept _ fun b hb _ => hfresh b hb
  refine ⟨h.change.trans (t.togglePixel_change hlt), fun b hb hset => ?_, fun k hk => ?_, ?_⟩
  · rw [State.pixel_togglePixel]
    rcases Nat.lt_succ_iff_lt_or_eq.mp hb with hb' | rfl
    · rw [if_neg (hfresh b hb')]
      exact h.toggled b hb' hset
    · rw [if_pos rfl, hpixel]
  · rw [State.pixel_togglePixel, if_neg (hk m (by omega) hbit).symm]
    exact h.kept k fun b hb => hk b (by omega)
  · rw [State.vf_togglePixel, hpixel]
    by_cases hset : s.pixel (idx (m / 8) (m % 8)) = 0x00
    · rw [if_neg (not_not_intro hset), h.struck]
      constructor
      · rintro ⟨b, hb, hrest⟩
        exact ⟨b, by omega, hrest⟩
      · rintro ⟨b, hb, hbset, hpix⟩
        rcases Nat.lt_succ_iff_lt_or_eq.mp hb with hb' | rfl
        · exact ⟨b, hb', hbset, hpix⟩
        · exact absurd hset hpix
    · rw [if_pos hset]
      exact iff_of_true rfl ⟨m, by omega, hbit, hset⟩

/-- One visit, at the coordinates that address pixel `idx` of its bit. -/
theorem Drawn.visit {x y : Reg} {l : Byte × Byte} (h : Drawn s idx m t)
    (hidx : pixelIndex (t.drawCoords x y l) (m / 8) (m % 8) = idx (m / 8) (m % 8))
    (hfresh : ∀ b < m, idx (b / 8) (b % 8) ≠ idx (m / 8) (m % 8)) : Drawn s idx (m + 1) (t.visit x y l m) := by
  have hrow : t.readByte (t.effAddr (m / 8)) = s.readByte (s.effAddr (m / 8)) := h.change.row _
  unfold State.visit State.drawBit
  rw [hrow, hidx]
  split
  · next hbit => exact h.toggle hbit (hidx ▸ pixelIndex_lt ..) hfresh
  · next hbit => exact h.skip hbit

/-- The whole walk, where every visit finds the coordinates of its `idx` and no two bits address one pixel. -/
theorem Drawn.visits {x y : Reg} {l : Byte × Byte} {n : Nat} (hvf : s.reg .vf = 0)
    (hidx : ∀ m < n, ∀ t, Drawn s idx m t →
      pixelIndex (t.drawCoords x y l) (m / 8) (m % 8) = idx (m / 8) (m % 8))
    (hfresh : ∀ m < n, ∀ b < m, idx (b / 8) (b % 8) ≠ idx (m / 8) (m % 8)) :
    Drawn s idx n ((List.range n).foldl (State.visit x y l) s) := by
  induction n with
  | zero => exact .init hvf
  | succ n ih =>
    have hn := ih (fun m hm => hidx m (by omega)) fun m hm => hfresh m (by omega)
    rw [List.range_succ, List.foldl_append]
    exact hn.visit (hidx n (by omega) _ hn) (hfresh n (by omega))

end

/-! ## DXYN as a whole -/

/-- What DXYN leaves where bit (i, j) addresses pixel `idx i j`: the clauses of O39 and O40. -/
structure Draws (s : State) (n : Nat) (idx : Nat → Nat → Nat) (t : State) : Prop where
  toggled : ∀ k, (∃ i < n, ∃ j < 8, s.spriteBit i j = true ∧ idx i j = k) → t.pixel k = s.pixel k ^^^ 0xFF
  vf : t.reg 0xF = 0 ∨ t.reg 0xF = 1
  struck : t.reg 0xF = 1 ↔ ∃ i < n, ∃ j < 8, s.spriteBit i j = true ∧ s.pixel (idx i j) ≠ 0x00
  draw : t.draw = true
  pc : t.pc = s.pc + 2
  frame : OnlyChanges (fun p => p = .pc ∨ p = .draw ∨ p = .reg 0xF ∨
    ∃ i < n, ∃ j < 8, s.spriteBit i j = true ∧ p = .pixel (idx i j)) s t

/-- The state the rows of a sprite are drawn from: after the advance, with VF = 0. -/
def State.drawStart (s : State) : State := s.advance.setReg .vf 0

/-- A change that drawing can make is a frame on VF and the pixels. -/
theorem DrawChange.frame {s t : State} (h : DrawChange s t) :
    OnlyChanges (fun p => p = .reg 0xF ∨ ∃ k, p = .pixel k) s t := by
  obtain ⟨v, disp, rfl⟩ : ∃ v disp, t = { s with v := v, disp := disp } := ⟨_, _, h.eq⟩
  intro p hp
  cases p with
  | reg k => exact h.regs k fun e => hp (.inl (by rw [e]))
  | pixel k => exact absurd (.inr ⟨k, rfl⟩) hp
  | _ => rfl

/-- The frame of a whole DXYN, before its pixels are told apart. -/
theorem DrawChange.frame_of_drawStart {s t : State} (h : DrawChange s.drawStart t) :
    OnlyChanges (fun p => p = .pc ∨ p = .draw ∨ p = .reg 0xF ∨ ∃ k, p = .pixel k) s (t.setDraw true) := by
  have hstart : OnlyChanges (fun p => p = .reg 0xF ∨ p = .pc) s s.drawStart := onlyChanges_advance_setReg s 0xF 0
  refine ((hstart.mono ?_).trans (h.frame.mono ?_)).trans ((onlyChanges_setDraw t true).mono ?_)
  · rintro p (hp | hp)
    · exact .inr (.inr (.inl hp))
    · exact .inl hp
  · exact fun p hp => .inr (.inr hp)
  · exact fun p hp => .inr (.inl hp)

/-- DXYN in range is the walk over its bits and the write of DRAW. -/
theorem exec_drw_visits {s : State} {n : Nibble} (x y : Reg)
    (hrange : n.toNat = 0 ∨ s.i.toNat + (n.toNat - 1) ≤ 0xFFF) :
    exec (.drw x y n) s = .next
      (((List.range (8 * n.toNat)).foldl (State.visit x y (s.reg x, s.reg y)) s.drawStart).setDraw true) := by
  rw [exec_drw x y hrange, ← drawRows_eq_visits]
  rfl

/-- The end of the walk, with DRAW set, is what DXYN leaves. -/
theorem Drawn.draws {s t : State} {n : Nat} {idx : Nat → Nat → Nat} (h : Drawn s.drawStart idx (8 * n) t) :
    Draws s n idx (t.setDraw true) where
  toggled k hk := by
    obtain ⟨b, hb, hset, rfl⟩ := exists_bit_iff.mp hk
    exact h.toggled b hb hset
  vf := by
    have hstart : s.drawStart.reg .vf = 0 := State.reg_setReg_same ..
    exact (hstart ▸ h.change.vf : t.reg .vf = 0 ∨ t.reg .vf = 1)
  struck := h.struck.trans
    (exists_bit_iff (P := fun i j => s.spriteBit i j = true ∧ s.pixel (idx i j) ≠ 0x00)).symm
  draw := rfl
  pc := congrArg State.pc h.change.eq
  frame p hp := by
    by_cases hpixel : ∃ k, p = .pixel k
    · obtain ⟨k, rfl⟩ := hpixel
      exact h.kept k fun b hb hset e =>
        hp (.inr (.inr (.inr (exists_bit_iff.mpr ⟨b, hb, hset, by rw [e]⟩))))
    · refine h.change.frame_of_drawStart p ?_
      rintro (hpc | hdraw | hvf | hk)
      · exact hp (.inl hpc)
      · exact hp (.inr (.inl hdraw))
      · exact hp (.inr (.inr (.inl hvf)))
      · exact hpixel hk

/-- DXYN in range draws at `idx`, where every visit finds the coordinates of its `idx` and no two bits address one
pixel. -/
theorem exec_drw_draws {s : State} {n : Nibble} {x y : Reg} {idx : Nat → Nat → Nat}
    (hrange : n.toNat = 0 ∨ s.i.toNat + (n.toNat - 1) ≤ 0xFFF)
    (hidx : ∀ m < 8 * n.toNat, ∀ t, Drawn s.drawStart idx m t →
      pixelIndex (t.drawCoords x y (s.reg x, s.reg y)) (m / 8) (m % 8) = idx (m / 8) (m % 8))
    (hfresh : ∀ m < 8 * n.toNat, ∀ b < m, idx (b / 8) (b % 8) ≠ idx (m / 8) (m % 8)) :
    ∃ t, exec (.drw x y n) s = .next t ∧ Draws s n.toNat idx t :=
  ⟨_, exec_drw_visits x y hrange, (Drawn.visits (State.reg_setReg_same ..) hidx hfresh).draws⟩

/-- Two bits of a sprite never address one pixel, not even where the later one is drawn a column to the right or a row
below: the walk covers less than the 2048 pixels of the display. -/
theorem spriteIndex_ne {cx cy cx' cy' b m : Nat} (hx : cx ≤ cx' ∧ cx' ≤ cx + 1) (hy : cy ≤ cy' ∧ cy' ≤ cy + 1)
    (hb : b < m) (hm : m < 128) : spriteIndex cx cy (b / 8) (b % 8) ≠ spriteIndex cx' cy' (m / 8) (m % 8) := by
  unfold spriteIndex
  omega

/-- A sprite has at most 15 rows. -/
theorem bit_lt_of_nibble {n : Nibble} {m : Nat} (hm : m < 8 * n.toNat) : m < 128 := by
  have hn := n.isLt
  omega

/-! ## Latched coordinates, and coordinates that are no VF -/

/-- DXYN whose visits all find the coordinates V[X] and V[Y] of its start draws at those. -/
theorem exec_drw_draws_of_fixed {s : State} {n : Nibble} {x y : Reg}
    (hrange : n.toNat = 0 ∨ s.i.toNat + (n.toNat - 1) ≤ 0xFFF)
    (hfixed : ∀ t, DrawChange s.drawStart t → t.drawCoords x y (s.reg x, s.reg y) = (s.reg x, s.reg y)) :
    ∃ t, exec (.drw x y n) s = .next t ∧ Draws s n.toNat (spriteIndex (s.reg x).toNat (s.reg y).toNat) t := by
  refine exec_drw_draws hrange (fun m _ t ht => ?_) fun m hm b hb => ?_
  · rw [hfixed t ht.change]
    rfl
  · exact spriteIndex_ne ⟨le_rfl, by omega⟩ ⟨le_rfl, by omega⟩ hb (bit_lt_of_nibble hm)

/-- Settles O39: latched coordinates are the pair read at the start, whatever VF becomes. -/
theorem latchedDrawTogglesExactlyTheSpritePixels : Obligations.LatchedDrawTogglesExactlyTheSpritePixels := by
  intro x y n s hlatch hrange
  obtain ⟨t, hexec, h⟩ := exec_drw_draws_of_fixed (x := x) (y := y) hrange fun t ht => by
    have hcfg : t.cfg = s.cfg := (congrArg State.cfg ht.eq).trans rfl
    rw [State.drawCoords, hcfg, hlatch]
  exact ⟨decode_word4 (f := 0xD) rfl rfl, t, hexec, h.toggled, h.vf, h.struck, h.draw, h.pc, h.frame⟩

/-- Coordinate registers other than VF keep their values while the sprite is drawn, so both values of the parameter draw
at the same place. -/
theorem drawCoords_of_ne_vf {s t : State} {x y : Reg} (hx : x ≠ 0xF) (hy : y ≠ 0xF) (ht : DrawChange s.drawStart t) :
    t.drawCoords x y (s.reg x, s.reg y) = (s.reg x, s.reg y) := by
  have hreg (k : Reg) (hk : k ≠ 0xF) : t.reg k = s.reg k :=
    (ht.regs k hk).trans ((State.reg_setReg ..).trans (if_neg hk))
  unfold State.drawCoords
  split
  · rfl
  · rw [hreg x hx, hreg y hy]

/-- Settles O41: the second draw addresses the same pixels, since neither the sprite nor its coordinates have changed, and
a second toggle restores each of them. -/
theorem drawingTwiceRestoresTheDisplay : Obligations.DrawingTwiceRestoresTheDisplay := by
  intro x y n s hx hy hrange
  obtain ⟨t, hfirst, ht⟩ := exec_drw_draws_of_fixed hrange fun _ => drawCoords_of_ne_vf hx hy
  have hi : t.i = s.i := ht.frame .i (by simp)
  have hregx : t.reg x = s.reg x := ht.frame (.reg x) (by simp [hx])
  have hregy : t.reg y = s.reg y := ht.frame (.reg y) (by simp [hy])
  have hbit (i j : Nat) : t.spriteBit i j = s.spriteBit i j := by
    have hmem : t.readByte (s.i.toNat + i) = s.readByte (s.i.toNat + i) := ht.frame (.mem _) (by simp)
    rw [State.spriteBit, State.spriteBit, hi, hmem]
  obtain ⟨u, hsecond, hu⟩ := exec_drw_draws_of_fixed (s := t) (n := n) (by rwa [hi]) fun _ => drawCoords_of_ne_vf hx hy
  rw [hregx, hregy] at hu
  refine ⟨t, u, hfirst, hsecond, fun k => ?_, ?_⟩
  · by_cases hk : ∃ i < n.toNat, ∃ j < 8, s.spriteBit i j = true ∧ spriteIndex (s.reg x).toNat (s.reg y).toNat i j = k
    · have hk' := hk
      simp only [← hbit] at hk'
      rw [hu.toggled k hk', ht.toggled k hk, BitVec.xor_assoc, BitVec.xor_self, BitVec.xor_zero]
    · have hsame {v w : State} (h : Draws v n.toNat (spriteIndex (s.reg x).toNat (s.reg y).toNat) w)
          (hv : ∀ i j, v.spriteBit i j = s.spriteBit i j) : w.pixel k = v.pixel k := by
        refine h.frame (.pixel k) ?_
        rintro (h | h | h | ⟨i, hi, j, hj, hset, h⟩)
        · cases h
        · cases h
        · cases h
        · cases h
          exact hk ⟨i, hi, j, hj, hv i j ▸ hset, rfl⟩
      rw [hsame hu hbit, hsame ht fun _ _ => rfl]
  · rintro ⟨i, hilt, j, hj, hset, hclear⟩
    refine hu.struck.mpr ⟨i, hilt, j, hj, (hbit i j).trans hset, ?_⟩
    rw [ht.toggled _ ⟨i, hilt, j, hj, hset, rfl⟩, hclear]
    decide

/-! ## Live coordinates (D12) -/

/-- The pixel of bit (i, j) with live coordinates, where VF holds `c i j` at its visit. -/
def State.liveIndex (s : State) (x y : Reg) (c : Nat → Nat → Nat) (i j : Nat) : Nat :=
  spriteIndex (s.liveCoord (c i j) x) (s.liveCoord (c i j) y) i j

/-- The bits visited before (i, j) are those with a smaller place in the walk. -/
theorem struckBefore_iff {s : State} {x y : Reg} {m : Nat} :
    s.struckBefore x y (m / 8) (m % 8) ↔ ∃ b < m, s.liveStrikes x y (b / 8) (b % 8) := by
  constructor
  · rintro ⟨i, j, hj, hbefore, hstrike⟩
    have hdiv : (8 * i + j) / 8 = i := by omega
    have hmod : (8 * i + j) % 8 = j := by omega
    exact ⟨8 * i + j, by omega, by rwa [hdiv, hmod]⟩
  · rintro ⟨b, hb, hstrike⟩
    exact ⟨b / 8, b % 8, by omega, by omega, hstrike⟩

/-- A coordinate that is VF moves by at most 1 as VF does; every other one stays. -/
theorem liveCoord_le {c c' : Nat} (hle : c ≤ c') (hsucc : c' ≤ c + 1) (s : State) (k : Reg) :
    s.liveCoord c k ≤ s.liveCoord c' k ∧ s.liveCoord c' k ≤ s.liveCoord c k + 1 := by
  unfold State.liveCoord
  split <;> omega

section
variable {s t : State} {x y : Reg} {c : Nat → Nat → Nat}
variable (hone : ∀ i j, s.struckBefore x y i j → c i j = 1) (hzero : ∀ i j, ¬ s.struckBefore x y i j → c i j = 0)
include hone hzero

/-- `c` rises along the walk, from 0 to 1. -/
theorem liveFlag_le {b m : Nat} (hb : b < m) :
    c (b / 8) (b % 8) ≤ c (m / 8) (m % 8) ∧ c (m / 8) (m % 8) ≤ c (b / 8) (b % 8) + 1 := by
  by_cases hm : s.struckBefore x y (m / 8) (m % 8)
  · have hc := hone _ _ hm
    by_cases hb' : s.struckBefore x y (b / 8) (b % 8)
    · have hc' := hone _ _ hb'
      omega
    · have hc' := hzero _ _ hb'
      omega
  · have hb' : ¬ s.struckBefore x y (b / 8) (b % 8) := by
      rw [struckBefore_iff] at hm ⊢
      rintro ⟨a, ha, hstrike⟩
      exact hm ⟨a, by omega, hstrike⟩
    have hc := hzero _ _ hm
    have hc' := hzero _ _ hb'
    omega

omit hone in
/-- At a bit before which none has struck, VF is 0, so the bit addresses the pixel it is tested at for VF = 0. -/
theorem liveIndex_of_not_struckBefore {i j : Nat} (h : ¬ s.struckBefore x y i j) :
    s.liveIndex x y c i j = spriteIndex (s.liveCoord 0 x) (s.liveCoord 0 y) i j := by
  rw [State.liveIndex, hzero i j h]

omit hone in
/-- Some earlier bit has struck, wherever it was drawn, exactly where one strikes for VF = 0: the first to strike is drawn
with VF = 0. -/
theorem exists_struck_iff {m : Nat} :
    (∃ b < m, s.spriteBit (b / 8) (b % 8) = true ∧ s.pixel (s.liveIndex x y c (b / 8) (b % 8)) ≠ 0x00) ↔
      s.struckBefore x y (m / 8) (m % 8) := by
  classical
  constructor
  · rintro ⟨b, hb, hset, hpixel⟩
    by_cases hbefore : s.struckBefore x y (b / 8) (b % 8)
    · obtain ⟨a, ha, hstrike⟩ := struckBefore_iff.mp hbefore
      exact struckBefore_iff.mpr ⟨a, by omega, hstrike⟩
    · rw [liveIndex_of_not_struckBefore hzero hbefore] at hpixel
      exact struckBefore_iff.mpr ⟨b, hb, hset, hpixel⟩
  · intro hm
    have hex := struckBefore_iff.mp hm
    obtain ⟨hfirst, hset, hpixel⟩ := Nat.find_spec hex
    have hnone : ¬ s.struckBefore x y (Nat.find hex / 8) (Nat.find hex % 8) := by
      rw [struckBefore_iff]
      rintro ⟨a, ha, hstrike⟩
      exact Nat.find_min hex ha ⟨by omega, hstrike⟩
    rw [← liveIndex_of_not_struckBefore hzero hnone] at hpixel
    exact ⟨_, hfirst, hset, hpixel⟩

/-- In the middle of a live drawing VF holds `c` of the bit to visit, so a coordinate register reads its live value. -/
theorem Drawn.reg_live {m : Nat} (h : Drawn s.drawStart (s.liveIndex x y c) m t) (k : Reg) :
    (t.reg k).toNat = s.liveCoord (c (m / 8) (m % 8)) k := by
  unfold State.liveCoord
  split
  · next hk =>
    subst hk
    have hstruck : t.reg .vf = 1 ↔ s.struckBefore x y (m / 8) (m % 8) := h.struck.trans (exists_struck_iff hzero)
    by_cases hm : s.struckBefore x y (m / 8) (m % 8)
    · rw [hone _ _ hm]
      exact congrArg BitVec.toNat (hstruck.mpr hm)
    · rw [hzero _ _ hm]
      have hstart : s.drawStart.reg .vf = 0 := State.reg_setReg_same ..
      rcases h.change.vf with hvf | hvf
      · exact congrArg BitVec.toNat (hvf.trans hstart)
      · exact absurd (hstruck.mp hvf) hm
  · next hk => exact congrArg BitVec.toNat ((h.change.regs k hk).trans ((State.reg_setReg ..).trans (if_neg hk)))

end

/-- Settles O40: at every visit VF is 1 exactly where an earlier bit has struck, and as VF only rises, no two bits address
one pixel. -/
theorem liveDrawReadsVfAsItChanges : Obligations.LiveDrawReadsVfAsItChanges := by
  intro x y n s c hlatch hrange hone hzero
  have hidx (m : Nat) (_ : m < 8 * n.toNat) (t : State) (ht : Drawn s.drawStart (s.liveIndex x y c) m t) :
      pixelIndex (t.drawCoords x y (s.reg x, s.reg y)) (m / 8) (m % 8) = s.liveIndex x y c (m / 8) (m % 8) := by
    have hcfg : t.cfg = s.cfg := (congrArg State.cfg ht.change.eq).trans rfl
    rw [State.drawCoords, hcfg, hlatch, State.liveIndex, ← ht.reg_live hone hzero x, ← ht.reg_live hone hzero y]
    rfl
  have hfresh (m : Nat) (hm : m < 8 * n.toNat) (b : Nat) (hb : b < m) :
      s.liveIndex x y c (b / 8) (b % 8) ≠ s.liveIndex x y c (m / 8) (m % 8) := by
    obtain ⟨hle, hsucc⟩ := liveFlag_le hone hzero hb
    exact spriteIndex_ne (liveCoord_le hle hsucc s x) (liveCoord_le hle hsucc s y) hb (bit_lt_of_nibble hm)
  obtain ⟨t, hexec, h⟩ := exec_drw_draws hrange hidx hfresh
  exact ⟨t, hexec, h.toggled, h.vf, h.struck, h.draw, h.pc, h.frame⟩

end Sys2Proof.Machine
end
